-- ==== Sys2Proof/Word.lean ====
section
/-! DEFINITION. The word types of the CHIP-8 core (spec/00_scope.md R6, R8, R9): every value is an unsigned bit vector. -/

namespace Sys2Proof

/-- A byte: the width of a general register, of a timer and of a memory cell (R6 `VWIDTH`, `TWIDTH`). -/
abbrev Byte := BitVec 8

/-- A 16-bit word: an instruction, the pc, the address register `I`, a stack entry (R6 `ILEN`, `PCWIDTH`,
`IWIDTH`, `SWIDTH`). -/
abbrev Word := BitVec 16

/-- A general-register index or key index: a 4-bit field, so every value is a legal index (R20). -/
abbrev Reg := BitVec 4

/-- The 12-bit address operand `nnn` of an A-type instruction (R72). -/
abbrev Addr := BitVec 12

end Sys2Proof
end

