-- ==== Sys2Proof/Config.lean ====
section
/-! DEFINITION. What the hardware fixes (spec/00_scope.md R6): the constants, the launch parameters as plain data, and
the values that only the host supplies and nothing constrains (spec/10_state.md R39, R40, R42). -/

namespace Sys2Proof

/-- The highest memory address, `MEM_TOP` (R6). -/
def Config.memTop : Nat := 0xFFF
/-- The start of the program region and the write-protection boundary, `PROG_START` (R6). -/
def Config.progStart : Nat := 0x200
/-- The stack's capacity, `STACK_DEPTH` (R6, spec/60_exceptions.md R155). -/
def Config.stackDepth : Nat := 16
/-- Bytes per glyph, `GLYPH_BYTES` (R6). -/
def Config.glyphBytes : Nat := 5
/-- The number of keys, `NKEYS` (R6). -/
def Config.numKeys : Nat := 16
/-- The size of the font: 16 glyphs of 5 bytes (spec/20_memory.md R47). -/
def Config.fontSize : Nat := 80

/-- Glyphs 0 to 7 of the default font (R50).
PRESUMED, unsafe (notes/assumptions/4): the source gives no glyph bytes. -/
def Config.standardFontLow : List Byte :=
  [0xF0, 0x90, 0x90, 0x90, 0xF0,  0x20, 0x60, 0x20, 0x20, 0x70,
   0xF0, 0x10, 0xF0, 0x80, 0xF0,  0xF0, 0x10, 0xF0, 0x10, 0xF0,
   0x90, 0x90, 0xF0, 0x10, 0x10,  0xF0, 0x80, 0xF0, 0x10, 0xF0,
   0xF0, 0x80, 0xF0, 0x90, 0xF0,  0xF0, 0x10, 0x20, 0x40, 0x40]
/-- Glyphs 8 to F of the default font (R50). -/
def Config.standardFontHigh : List Byte :=
  [0xF0, 0x90, 0xF0, 0x90, 0xF0,  0xF0, 0x90, 0xF0, 0x10, 0xF0,
   0xF0, 0x90, 0xF0, 0x90, 0x90,  0xE0, 0x90, 0xE0, 0x90, 0xE0,
   0xF0, 0x80, 0x80, 0x80, 0xF0,  0xE0, 0x90, 0x90, 0x90, 0xE0,
   0xF0, 0x80, 0xF0, 0x80, 0xF0,  0xF0, 0x80, 0xF0, 0x80, 0x80]

/-- The default of `FONT_GLYPHS` (R50): the standard CHIP-8 font, glyph d at offset 5d. -/
def Config.standardFont : Vector Byte 80 := ⟨(Config.standardFontLow ++ Config.standardFontHigh).toArray, rfl⟩

/-- The register `subn` writes, `SUBN_DEST` (R6, spec/44_register.md R122). -/
inductive SubnDest where
  | x | y
  deriving DecidableEq, Repr

/-- The parameters the spec leaves to the launch and no step changes (R6): "the model takes as an argument".
They are plain data so that a statement about every state is one about every value of them (notes/assumptions/3). -/
structure Params where
  /-- `FONT_BASE`; the type holds exactly the values with FONT_BASE + 80 ≤ 0x200 (spec/20_memory.md R47). -/
  fontBase : Fin 433
  /-- `FONT_GLYPHS`, glyph d at offset 5d (R47, R50). -/
  fontGlyphs : Vector Byte 80
  /-- `SUBN_DEST` (R122). -/
  subnDest : SubnDest
  deriving DecidableEq, Repr

/-! The host's answers. Each is a function with no body of the number of the query: nothing can be proved about a value of
it, and two queries are unrelated (DESIGN CHOICE, safe: notes/assumptions/9). -/

/-- The level of the 16 keys at the n-th query, bit k set when key k is pressed (R38, R40; "any value" in
spec/93_implementation_defined.md). -/
opaque Config.keyState : Nat → BitVec 16
/-- The byte on `rand_byte` at the n-th query (R42). -/
opaque Config.randByte : Nat → Byte
/-- The draw collaborator's answer to the n-th query: a collision bit (ignored for CLEAR), or no answer (R39,
spec/60_exceptions.md R153). -/
opaque Config.drawResp : Nat → Option (BitVec 1)

end Sys2Proof
end

