-- ==== Sys2Proof/Syntax.lean ====
section
/-! DEFINITION. The 35 instructions of spec/opcode_table.json (spec/30_encoding.md R77), one constructor per row, in the
table's order. Every operand field of the word is kept, the ignored ones of R85 too, so an instruction stands for exactly
one word. -/

namespace Sys2Proof

/-- An instruction with its operand fields (R68, R71). -/
inductive Instr where
  /-- 0nnn (R93); `nnn` is decoded and ignored. -/
  | sys (nnn : Addr)
  /-- 1nnn (R94). -/
  | jump (nnn : Addr)
  /-- 2nnn (R95). -/
  | call (nnn : Addr)
  /-- 00EE (R96); the spec's name is `return`. -/
  | ret
  /-- Annn (R97). -/
  | loadAddress (nnn : Addr)
  /-- Bnnn (R98). -/
  | jumpOffset (nnn : Addr)
  /-- 3xkk (R99). -/
  | skipEqualImmediate (x : Reg) (kk : Byte)
  /-- 4xkk (R100). -/
  | skipNotEqualImmediate (x : Reg) (kk : Byte)
  /-- 6xkk (R101). -/
  | loadImmediate (x : Reg) (kk : Byte)
  /-- 7xkk (R102). -/
  | addImmediate (x : Reg) (kk : Byte)
  /-- Cxkk (R103). -/
  | random (x : Reg) (kk : Byte)
  /-- Ex9E (R104). -/
  | skipIfKeyPressed (x : Reg)
  /-- ExA1 (R105). -/
  | skipIfKeyNotPressed (x : Reg)
  /-- Fx07 (R106). -/
  | loadDelayTimer (x : Reg)
  /-- Fx0A (R107). -/
  | waitForKey (x : Reg)
  /-- Fx15 (R108). -/
  | setDelayTimer (x : Reg)
  /-- Fx18 (R109). -/
  | setSoundTimer (x : Reg)
  /-- Fx1E (R110). -/
  | incrementAddressRegister (x : Reg)
  /-- Fx29 (R111). -/
  | fontAddress (x : Reg)
  /-- Fx33 (R112). -/
  | binaryCodedDecimal (x : Reg)
  /-- Fx55 (R113). -/
  | saveRegisters (x : Reg)
  /-- Fx65 (R114). -/
  | restoreRegisters (x : Reg)
  /-- 8xy0 (R115). -/
  | move (x y : Reg)
  /-- 8xy1 (R116). -/
  | or (x y : Reg)
  /-- 8xy2 (R117). -/
  | and (x y : Reg)
  /-- 8xy3 (R118). -/
  | xor (x y : Reg)
  /-- 8xy4 (R119). -/
  | add (x y : Reg)
  /-- 8xy5 (R120). -/
  | sub (x y : Reg)
  /-- 8xy6 (R121); `y` is decoded and ignored. -/
  | shr (x y : Reg)
  /-- 8xy7 (R122). -/
  | subn (x y : Reg)
  /-- 8xyE (R123); `y` is decoded and ignored. -/
  | shl (x y : Reg)
  /-- 5xy0 (R124). -/
  | skipIfEqual (x y : Reg)
  /-- 9xy0 (R125). -/
  | skipIfNotEqual (x y : Reg)
  /-- 00E0 (R127). -/
  | clearScreen
  /-- Dxyn (R128). -/
  | drawSprite (x y n : Reg)
  deriving DecidableEq, Repr

end Sys2Proof
end

