-- ==== Sys2Proof/WellFormed.lean ====
section
/-! DEFINITION. Which terms of Instr stand for a word: all but the two `sys` operands whose words are the V-type
instructions (spec/30_encoding.md R79). -/

namespace Sys2Proof

/-- 0x00E0 and 0x00EE are clear-screen and return, never `sys` (R79); every other operand value is allowed (R85). -/
def Instr.wf : Instr → Bool
  | .sys nnn => nnn != 0x0E0#12 && nnn != 0x0EE#12
  | .jump _ | .call _ | .ret | .loadAddress _ | .jumpOffset _ => true
  | .skipEqualImmediate _ _ | .skipNotEqualImmediate _ _ | .loadImmediate _ _ | .addImmediate _ _ | .random _ _ => true
  | .skipIfKeyPressed _ | .skipIfKeyNotPressed _ => true
  | .loadDelayTimer _ | .waitForKey _ | .setDelayTimer _ | .setSoundTimer _ | .incrementAddressRegister _ => true
  | .fontAddress _ | .binaryCodedDecimal _ | .saveRegisters _ | .restoreRegisters _ => true
  | .move _ _ | .or _ _ | .and _ _ | .xor _ _ | .add _ _ | .sub _ _ | .shr _ _ | .subn _ _ | .shl _ _ => true
  | .skipIfEqual _ _ | .skipIfNotEqual _ _ => true
  | .clearScreen | .drawSprite _ _ _ => true

end Sys2Proof
end

