-- ==== Sys2Proof/Decode.lean ====
section
/-! DEFINITION. The decoder, the dispatch table and the encoder (spec/30_encoding.md R67 to R87): fields, classes,
`decode` on a word and on bytes, `encode`, the enumerable opcode table of R84 and the mnemonics. -/

namespace Sys2Proof

/-! ### Fields (R68) -/

/-- `op = w[15:12]`. -/
def fieldOp (w : Word) : BitVec 4 := w.extractLsb' 12 4
/-- `x = w[11:8]`. -/
def fieldX (w : Word) : Reg := w.extractLsb' 8 4
/-- `y = w[7:4]`. -/
def fieldY (w : Word) : Reg := w.extractLsb' 4 4
/-- `n = d = w[3:0]`. -/
def fieldN (w : Word) : Reg := w.extractLsb' 0 4
/-- `nnn = w[11:0]`. -/
def fieldNNN (w : Word) : Addr := w.extractLsb' 0 12
/-- `kk = w[7:0]`. -/
def fieldKK (w : Word) : Byte := w.extractLsb' 0 8

/-- The word of two bytes, the byte at the lower address first: big-endian (spec/20_memory.md R57). -/
def wordOfBytes (hi lo : Byte) : Word := hi ++ lo

/-! ### Classes (R70) -/

/-- The five operand layouts: address, draw, immediate, register, void. -/
inductive Format where
  | a | d | i | r | v
  deriving DecidableEq, Repr

/-- `Class(w)` of R70: the two void words first, then the top nibble. Total. -/
def classOf (w : Word) : Format :=
  if w = 0x00E0#16 ∨ w = 0x00EE#16 then .v
  else
    match (fieldOp w).toNat with
    | 0 | 1 | 2 | 0xA | 0xB => .a
    | 0xD => .d
    | 5 | 8 | 9 => .r
    | _ => .i

/-! ### The decoder and dispatch (R69, R78) -/

/-- Why bytes are no instruction. The first five name the family of an illegal word (R81): the NO_INSTRUCTION outcome. -/
inductive DecodeReject where
  /-- 5xyd with d ≠ 0 (R82). -/
  | illegal5 (w : Word)
  /-- 8xyd with d in 8 to D or F (R81). -/
  | illegal8 (w : Word)
  /-- 9xyd with d ≠ 0 (R82). -/
  | illegal9 (w : Word)
  /-- Exkk with kk neither 9E nor A1 (R81). -/
  | illegalE (w : Word)
  /-- Fxkk with kk not one of the nine sub-opcodes (R81). -/
  | illegalF (w : Word)
  /-- Fewer than the two bytes of an instruction (R67). -/
  | truncated
  deriving DecidableEq, Repr

/-- The result of decoding: an instruction, or a rejection by name. -/
inductive DecodeResult where
  | ok (i : Instr)
  | reject (why : DecodeReject)
  deriving DecidableEq, Repr

/-- The instruction of a decoding, if there is one. -/
def DecodeResult.toOption : DecodeResult → Option Instr
  | .ok i => some i
  | .reject _ => none

/-- Family 8, keyed by the low nibble (R75, R78). -/
def decode8 (w : Word) : DecodeResult :=
  match (fieldN w).toNat with
  | 0 => .ok (.move (fieldX w) (fieldY w))
  | 1 => .ok (.or (fieldX w) (fieldY w))
  | 2 => .ok (.and (fieldX w) (fieldY w))
  | 3 => .ok (.xor (fieldX w) (fieldY w))
  | 4 => .ok (.add (fieldX w) (fieldY w))
  | 5 => .ok (.sub (fieldX w) (fieldY w))
  | 6 => .ok (.shr (fieldX w) (fieldY w))
  | 7 => .ok (.subn (fieldX w) (fieldY w))
  | 0xE => .ok (.shl (fieldX w) (fieldY w))
  | _ => .reject (.illegal8 w)

/-- Family E, keyed by the low byte (R74, R78). -/
def decodeE (w : Word) : DecodeResult :=
  match (fieldKK w).toNat with
  | 0x9E => .ok (.skipIfKeyPressed (fieldX w))
  | 0xA1 => .ok (.skipIfKeyNotPressed (fieldX w))
  | _ => .reject (.illegalE w)

/-- Family F, keyed by the low byte (R74, R78). -/
def decodeF (w : Word) : DecodeResult :=
  match (fieldKK w).toNat with
  | 0x07 => .ok (.loadDelayTimer (fieldX w))
  | 0x0A => .ok (.waitForKey (fieldX w))
  | 0x15 => .ok (.setDelayTimer (fieldX w))
  | 0x18 => .ok (.setSoundTimer (fieldX w))
  | 0x1E => .ok (.incrementAddressRegister (fieldX w))
  | 0x29 => .ok (.fontAddress (fieldX w))
  | 0x33 => .ok (.binaryCodedDecimal (fieldX w))
  | 0x55 => .ok (.saveRegisters (fieldX w))
  | 0x65 => .ok (.restoreRegisters (fieldX w))
  | _ => .reject (.illegalF w)

/-- `Dispatch(w)` of R78 with the operands assembled (R80). The last arm is top nibble F, the only one left. -/
def decode (w : Word) : DecodeResult :=
  if w = 0x00E0#16 then .ok .clearScreen
  else if w = 0x00EE#16 then .ok .ret
  else
    match (fieldOp w).toNat with
    | 0x0 => .ok (.sys (fieldNNN w))
    | 0x1 => .ok (.jump (fieldNNN w))
    | 0x2 => .ok (.call (fieldNNN w))
    | 0x3 => .ok (.skipEqualImmediate (fieldX w) (fieldKK w))
    | 0x4 => .ok (.skipNotEqualImmediate (fieldX w) (fieldKK w))
    | 0x5 => if fieldN w = 0#4 then .ok (.skipIfEqual (fieldX w) (fieldY w)) else .reject (.illegal5 w)
    | 0x6 => .ok (.loadImmediate (fieldX w) (fieldKK w))
    | 0x7 => .ok (.addImmediate (fieldX w) (fieldKK w))
    | 0x8 => decode8 w
    | 0x9 => if fieldN w = 0#4 then .ok (.skipIfNotEqual (fieldX w) (fieldY w)) else .reject (.illegal9 w)
    | 0xA => .ok (.loadAddress (fieldNNN w))
    | 0xB => .ok (.jumpOffset (fieldNNN w))
    | 0xC => .ok (.random (fieldX w) (fieldKK w))
    | 0xD => .ok (.drawSprite (fieldX w) (fieldY w) (fieldN w))
    | 0xE => decodeE w
    | _ => decodeF w

/-- Decoding the first instruction of a list of bytes: total, and it returns the rest of the list (R67, R57). -/
def decodeBytes : List Byte → DecodeResult × List Byte
  | hi :: lo :: rest => (decode (wordOfBytes hi lo), rest)
  | short => (.reject .truncated, short)

/-- The two bytes of a word as memory holds them, the byte of bits 15 to 8 at the lower address (R57). -/
def bytesOfWord (w : Word) : List Byte := [w.extractLsb' 8 8, w.extractLsb' 0 8]

/-- The instruction the decoder reads from a table word: `w` has one 16-bit word, bit 0 its least significant bit, and
its bits from `nbits` up are 0. -/
def decodeTableWord (nbits w : Nat) : Option Instr :=
  (decodeBytes (bytesOfWord (BitVec.ofNat 16 (w % 2 ^ nbits)))).1.toOption

/-! ### The encoder (R71 to R77) -/

/-- A-type: discriminant and address (R72). -/
def encodeA (op : BitVec 4) (nnn : Addr) : Word := op ++ nnn
/-- I-type: discriminant, register, immediate or sub-opcode (R74). -/
def encodeI (op : BitVec 4) (x : Reg) (kk : Byte) : Word := op ++ (x ++ kk : BitVec 12)
/-- R-type and D-type: discriminant, two registers, low nibble (R73, R75). -/
def encodeR (op : BitVec 4) (x y d : Reg) : Word := op ++ (x ++ (y ++ d : BitVec 8) : BitVec 12)

/-- The word of an instruction (R77). -/
def encode : Instr → Word
  | .sys nnn => encodeA 0x0#4 nnn
  | .jump nnn => encodeA 0x1#4 nnn
  | .call nnn => encodeA 0x2#4 nnn
  | .ret => 0x00EE#16
  | .loadAddress nnn => encodeA 0xA#4 nnn
  | .jumpOffset nnn => encodeA 0xB#4 nnn
  | .skipEqualImmediate x kk => encodeI 0x3#4 x kk
  | .skipNotEqualImmediate x kk => encodeI 0x4#4 x kk
  | .loadImmediate x kk => encodeI 0x6#4 x kk
  | .addImmediate x kk => encodeI 0x7#4 x kk
  | .random x kk => encodeI 0xC#4 x kk
  | .skipIfKeyPressed x => encodeI 0xE#4 x 0x9E#8
  | .skipIfKeyNotPressed x => encodeI 0xE#4 x 0xA1#8
  | .loadDelayTimer x => encodeI 0xF#4 x 0x07#8
  | .waitForKey x => encodeI 0xF#4 x 0x0A#8
  | .setDelayTimer x => encodeI 0xF#4 x 0x15#8
  | .setSoundTimer x => encodeI 0xF#4 x 0x18#8
  | .incrementAddressRegister x => encodeI 0xF#4 x 0x1E#8
  | .fontAddress x => encodeI 0xF#4 x 0x29#8
  | .binaryCodedDecimal x => encodeI 0xF#4 x 0x33#8
  | .saveRegisters x => encodeI 0xF#4 x 0x55#8
  | .restoreRegisters x => encodeI 0xF#4 x 0x65#8
  | .move x y => encodeR 0x8#4 x y 0x0#4
  | .or x y => encodeR 0x8#4 x y 0x1#4
  | .and x y => encodeR 0x8#4 x y 0x2#4
  | .xor x y => encodeR 0x8#4 x y 0x3#4
  | .add x y => encodeR 0x8#4 x y 0x4#4
  | .sub x y => encodeR 0x8#4 x y 0x5#4
  | .shr x y => encodeR 0x8#4 x y 0x6#4
  | .subn x y => encodeR 0x8#4 x y 0x7#4
  | .shl x y => encodeR 0x8#4 x y 0xE#4
  | .skipIfEqual x y => encodeR 0x5#4 x y 0x0#4
  | .skipIfNotEqual x y => encodeR 0x9#4 x y 0x0#4
  | .clearScreen => 0x00E0#16
  | .drawSprite x y n => encodeR 0xD#4 x y n

/-! ### The enumerable opcode table (R77, R84) -/

/-- One row of the opcode table: a word is the row's when `w AND mask = pattern`; the handler is named by its mnemonic. -/
structure OpcodeRow where
  index : Nat
  mnemonic : String
  format : Format
  pattern : Word
  mask : Word
  deriving DecidableEq, Repr

/-- Rows 0 to 5 and 33 to 34: the address, void and draw rows of R77. -/
def opcodeRowsAddress : List OpcodeRow :=
  [⟨0, "sys", .a, 0x0000#16, 0xF000#16⟩, ⟨1, "jump", .a, 0x1000#16, 0xF000#16⟩,
   ⟨2, "call", .a, 0x2000#16, 0xF000#16⟩, ⟨3, "return", .v, 0x00EE#16, 0xFFFF#16⟩,
   ⟨4, "load-address", .a, 0xA000#16, 0xF000#16⟩, ⟨5, "jump-offset", .a, 0xB000#16, 0xF000#16⟩]

/-- Rows 6 to 21: the immediate rows of R77. -/
def opcodeRowsImmediate : List OpcodeRow :=
  [⟨6, "skip-equal-immediate", .i, 0x3000#16, 0xF000#16⟩, ⟨7, "skip-not-equal-immediate", .i, 0x4000#16, 0xF000#16⟩,
   ⟨8, "load-immediate", .i, 0x6000#16, 0xF000#16⟩, ⟨9, "add-immediate", .i, 0x7000#16, 0xF000#16⟩,
   ⟨10, "random", .i, 0xC000#16, 0xF000#16⟩,
   ⟨11, "skip-if-key-pressed", .i, 0xE09E#16, 0xF0FF#16⟩, ⟨12, "skip-if-key-not-pressed", .i, 0xE0A1#16, 0xF0FF#16⟩,
   ⟨13, "load-delay-timer", .i, 0xF007#16, 0xF0FF#16⟩, ⟨14, "wait-for-key", .i, 0xF00A#16, 0xF0FF#16⟩,
   ⟨15, "set-delay-timer", .i, 0xF015#16, 0xF0FF#16⟩, ⟨16, "set-sound-timer", .i, 0xF018#16, 0xF0FF#16⟩,
   ⟨17, "increment-address-register", .i, 0xF01E#16, 0xF0FF#16⟩, ⟨18, "font-address", .i, 0xF029#16, 0xF0FF#16⟩,
   ⟨19, "binary-coded-decimal", .i, 0xF033#16, 0xF0FF#16⟩, ⟨20, "save-registers", .i, 0xF055#16, 0xF0FF#16⟩,
   ⟨21, "restore-registers", .i, 0xF065#16, 0xF0FF#16⟩]

/-- Rows 22 to 32: the register rows of R77. -/
def opcodeRowsRegister : List OpcodeRow :=
  [⟨22, "move", .r, 0x8000#16, 0xF00F#16⟩, ⟨23, "or", .r, 0x8001#16, 0xF00F#16⟩,
   ⟨24, "and", .r, 0x8002#16, 0xF00F#16⟩, ⟨25, "xor", .r, 0x8003#16, 0xF00F#16⟩,
   ⟨26, "add", .r, 0x8004#16, 0xF00F#16⟩, ⟨27, "sub", .r, 0x8005#16, 0xF00F#16⟩,
   ⟨28, "shr", .r, 0x8006#16, 0xF00F#16⟩, ⟨29, "subn", .r, 0x8007#16, 0xF00F#16⟩,
   ⟨30, "shl", .r, 0x800E#16, 0xF00F#16⟩, ⟨31, "skip-if-equal", .r, 0x5000#16, 0xF00F#16⟩,
   ⟨32, "skip-if-not-equal", .r, 0x9000#16, 0xF00F#16⟩]

/-- The whole table, in the order of R77. -/
def opcodeTable : List OpcodeRow :=
  opcodeRowsAddress ++ opcodeRowsImmediate ++ opcodeRowsRegister ++
    [⟨33, "clear-screen", .v, 0x00E0#16, 0xFFFF#16⟩, ⟨34, "draw-sprite", .d, 0xD000#16, 0xF000#16⟩]

/-- A row matches a word; the `sys` row excludes the two void words (R77, R79). -/
def OpcodeRow.matchesWord (r : OpcodeRow) (w : Word) : Bool :=
  (w &&& r.mask) == r.pattern && !(r.index == 0 && (w == 0x00E0#16 || w == 0x00EE#16))

/-- The opcode-table index of a word: the matching row's, or 35 for NO_INSTRUCTION (R84). -/
def tableIndex (w : Word) : Nat :=
  match opcodeTable.find? (fun r => r.matchesWord w) with
  | some r => r.index
  | none => 35

/-- The opcode-table index of an instruction (R77). -/
def Instr.index : Instr → Nat
  | .sys _ => 0 | .jump _ => 1 | .call _ => 2 | .ret => 3 | .loadAddress _ => 4 | .jumpOffset _ => 5
  | .skipEqualImmediate _ _ => 6 | .skipNotEqualImmediate _ _ => 7 | .loadImmediate _ _ => 8 | .addImmediate _ _ => 9
  | .random _ _ => 10 | .skipIfKeyPressed _ => 11 | .skipIfKeyNotPressed _ => 12 | .loadDelayTimer _ => 13
  | .waitForKey _ => 14 | .setDelayTimer _ => 15 | .setSoundTimer _ => 16 | .incrementAddressRegister _ => 17
  | .fontAddress _ => 18 | .binaryCodedDecimal _ => 19 | .saveRegisters _ => 20 | .restoreRegisters _ => 21
  | .move _ _ => 22 | .or _ _ => 23 | .and _ _ => 24 | .xor _ _ => 25 | .add _ _ => 26 | .sub _ _ => 27
  | .shr _ _ => 28 | .subn _ _ => 29 | .shl _ _ => 30 | .skipIfEqual _ _ => 31 | .skipIfNotEqual _ _ => 32
  | .clearScreen => 33 | .drawSprite _ _ _ => 34

/-- The class of an instruction's word (R71, R77). -/
def Instr.format : Instr → Format
  | .sys _ | .jump _ | .call _ | .loadAddress _ | .jumpOffset _ => .a
  | .ret | .clearScreen => .v
  | .drawSprite _ _ _ => .d
  | .move _ _ | .or _ _ | .and _ _ | .xor _ _ | .add _ _ | .sub _ _ | .shr _ _ | .subn _ _ | .shl _ _ => .r
  | .skipIfEqual _ _ | .skipIfNotEqual _ _ => .r
  | .skipEqualImmediate _ _ | .skipNotEqualImmediate _ _ | .loadImmediate _ _ | .addImmediate _ _ | .random _ _ => .i
  | .skipIfKeyPressed _ | .skipIfKeyNotPressed _ | .loadDelayTimer _ | .waitForKey _ | .setDelayTimer _ => .i
  | .setSoundTimer _ | .incrementAddressRegister _ | .fontAddress _ | .binaryCodedDecimal _ => .i
  | .saveRegisters _ | .restoreRegisters _ => .i

/-! ### Assembler text (R86, R87) -/

/-- The spec's canonical name of an instruction (R17): its row's mnemonic. -/
def Instr.mnemonic (i : Instr) : String :=
  ((opcodeTable.find? (fun r => r.index == i.index)).map OpcodeRow.mnemonic).getD ""

/-- One hexadecimal digit. -/
def hexDigit (d : BitVec 4) : String :=
  ["0", "1", "2", "3", "4", "5", "6", "7", "8", "9", "A", "B", "C", "D", "E", "F"].getD d.toNat ""

/-- A register's spelling, `V0` to `VF`. -/
def regText (x : Reg) : String := "V" ++ hexDigit x
/-- A 12-bit address in hexadecimal. -/
def addrText (a : Addr) : String :=
  "0x" ++ hexDigit (a.extractLsb' 8 4) ++ hexDigit (a.extractLsb' 4 4) ++ hexDigit (a.extractLsb' 0 4)
/-- An 8-bit immediate in hexadecimal. -/
def byteText (b : Byte) : String := "0x" ++ hexDigit (b.extractLsb' 4 4) ++ hexDigit (b.extractLsb' 0 4)

/-- The operands of an instruction as R86 writes them, separated by commas. -/
def Instr.operandText : Instr → List String
  | .sys a | .jump a | .call a | .loadAddress a | .jumpOffset a => [addrText a]
  | .ret | .clearScreen => []
  | .skipEqualImmediate x k | .skipNotEqualImmediate x k | .loadImmediate x k => [regText x, byteText k]
  | .addImmediate x k | .random x k => [regText x, byteText k]
  | .skipIfKeyPressed x | .skipIfKeyNotPressed x | .loadDelayTimer x | .waitForKey x | .setDelayTimer x => [regText x]
  | .setSoundTimer x | .incrementAddressRegister x | .fontAddress x | .binaryCodedDecimal x => [regText x]
  | .saveRegisters x | .restoreRegisters x => [regText x]
  | .move x y | .or x y | .and x y | .xor x y | .add x y | .sub x y => [regText x, regText y]
  | .shr x y | .subn x y | .shl x y | .skipIfEqual x y | .skipIfNotEqual x y => [regText x, regText y]
  | .drawSprite x y n => [regText x, regText y, toString n.toNat]

/-- A line of assembly: exactly one instruction (R86, R87). -/
def Instr.asm (i : Instr) : String :=
  match i.operandText with
  | [] => i.mnemonic
  | ops => i.mnemonic ++ " " ++ ", ".intercalate ops

end Sys2Proof
end

