-- ==== Sys2Proof/Machine/State.lean ====
section
/-! DEFINITION. The machine's state as plain data (spec/10_state.md R20 to R38), the reasons a step can stop, and the
state right after reset (R35, spec/70_reset_and_hazards.md R156). -/

namespace Sys2Proof.Machine

/-- A timer: an 8-bit counter and its running state (R27 to R29, spec/60_exceptions.md R142). -/
structure Timer where
  value : Byte
  run : Bool
  deriving DecidableEq, Repr

/-- The failure kinds of spec/60_exceptions.md R132. -/
inductive FailureKind where
  | decodeFailure | stackOverflow | stackUnderflow | memoryBoundsExceeded | writeProtected
  deriving DecidableEq, Repr

/-- What a failure records (R32): the kind, the pc and the word of the failing instruction, and the failing address. -/
structure FailureRecord where
  kind : FailureKind
  pc : Word
  word : Word
  addr : BitVec 17
  deriving DecidableEq, Repr

/-- The values on the block's data inputs during one engine step (R38): `key_state`, `rand_byte`, and `draw_resp`, where
`none` is a draw collaborator that does not answer, be it a DRAW_SPRITE or a CLEAR (spec/60_exceptions.md R153). -/
structure Ports where
  keyState : BitVec 16
  randByte : Byte
  drawResp : Option (BitVec 1)
  deriving DecidableEq, Repr

/-- The launch inputs of a reset (R35): `RESET_V`, `RESET_I`, `RESET_DT`, `RESET_ST`, `RESERVED_FILL`, `ROM_IMAGE`.
The two memory inputs list bytes by address; an address they do not list holds 0. -/
structure Launch where
  v : Vector Byte 16
  i : Word
  dt : Byte
  st : Byte
  reservedFill : List Host.Cell
  romImage : List Host.Cell
  deriving DecidableEq, Repr

/-- The host's actions on a running core (spec/60_exceptions.md R150), other than granting a step. -/
inductive HostAction where
  /-- A `key_press` event with key index k (R41). -/
  | keyPress (k : Reg)
  | delayStart | delayStop | soundStart | soundStop
  /-- The `reset` input, with the launch inputs of R35. -/
  | reset (l : Launch)
  | shutDown
  deriving DecidableEq, Repr

/-- One turn of one agent (spec/60_exceptions.md R149). -/
inductive Turn where
  /-- The host grants `step` (R44) with these values on the data inputs; `none` leaves them free. -/
  | engine (ports : Option Ports)
  /-- A `dt_tick` event (R43). -/
  | delayTick
  /-- An `st_tick` event (R43). -/
  | soundTick
  | host (a : HostAction)
  deriving DecidableEq, Repr

/-- A request on `draw_req` (R38, R39); a sprite's row count is the number of its rows. -/
inductive DrawRequest where
  | clear
  | sprite (x y : Byte) (rows : List Byte)
  deriving DecidableEq, Repr

/-- An event on `log` (spec/60_exceptions.md R133). -/
inductive LogEvent where
  | illegalSystemCall (pc : Word) (nnn : Addr)
  | spriteTruncated (pc : Word) (requested copied : Nat)
  deriving DecidableEq, Repr

/-- Memory: the bytes that differ from what an unlisted address holds, by address. -/
abbrev Memory := List Host.Cell

/-- Why the machine stops. The core's own failures are no `Fault`: they latch `State.fault` and the machine goes on as a
halted engine with running timers (spec/60_exceptions.md R135). -/
inductive Fault where
  /-- Raised by `step` when the host shuts the engine down (R150: "all agents stop"). Safe: no agent has a further step. -/
  | shutDown
  deriving DecidableEq, Repr

/-- Why an instruction has no meaning. -/
inductive Refusal where
  /-- Raised by an arm of `exec` for an instruction without a meaning; no arm does. Safe: the machine stops. -/
  | notModelled (mnemonic : String)
  deriving DecidableEq, Repr

/-- The whole machine. -/
structure State where
  /-- V0 to VF (R20); VF is the flag register (R21). -/
  v : Vector Byte 16
  /-- The program counter (R23). -/
  pc : Word
  /-- The address register `I` (R26). -/
  i : Word
  /-- The delay timer with `dt_run` (R27, R29). -/
  dt : Timer
  /-- The sound timer with `st_run` (R28, R29). -/
  st : Timer
  /-- The return-address stack, newest entry first (R30). -/
  stack : List Word
  /-- The memory array M (R34). -/
  mem : Memory
  /-- The failure latch (R32): `none` is `fault.valid = 0`. -/
  fault : Option FailureRecord
  /-- The key wait (R32): `some x` is `waiting = {valid 1, x}`. -/
  waiting : Option Reg
  /-- The launch parameters (spec/00_scope.md R6); no step changes them. -/
  params : Params
  /-- The draw requests issued so far, oldest first (R39). -/
  draws : List DrawRequest
  /-- The diagnostic log so far, oldest first (R33, R38). -/
  log : List LogEvent
  /-- The model's own: the values the host holds on the data inputs; `none` when it may put any there. -/
  ports : Option Ports
  /-- The model's own: how many times the core has read a data input, the argument of the free inputs of Config. -/
  inputIx : Nat
  /-- The model's own: the agents' coming turns, the next first; when there is none left the engine takes its turn. -/
  turns : List Turn
  deriving DecidableEq, Repr

/-- The parameters `State.reset` has: `FONT_BASE` 0 (DESIGN CHOICE, unsafe: notes/assumptions/3), the default font
(PRESUMED: notes/assumptions/4) and the default `SUBN_DEST` (notes/assumptions/6). -/
def Params.default : Params := { fontBase := 0, fontGlyphs := Config.standardFont, subnDest := .y }

/-- The machine right after reset (R35, R156). V, I, DT, ST and the bytes outside the font are launch inputs the spec
leaves open; here they are 0 (DESIGN CHOICE, unsafe: notes/assumptions/1, 2, 5). Memory lists nothing: an unlisted address
holds the font's byte or 0. -/
def State.reset : State where
  v := Vector.replicate 16 0#8
  pc := 0x200#16
  i := 0#16
  dt := { value := 0#8, run := true }
  st := { value := 0#8, run := true }
  stack := []
  mem := []
  fault := none
  waiting := none
  params := Params.default
  draws := []
  log := []
  ports := none
  inputIx := 0
  turns := []

end Sys2Proof.Machine
end

