-- ==== Sys2Proof/Machine/Ops.lean ====
section
/-! DEFINITION. The named operations over registers, memory, the stack, the inputs and the outputs; the handler outcomes
with their pc policy (spec/30_encoding.md R88, R90); latching a failure, which is this core's whole exception entry
(spec/60_exceptions.md R135). There is no return from an exception but reset (R137). -/

namespace Sys2Proof.Machine

/-! ### Registers (spec/00_scope.md R10) -/

/-- `V[x]`. -/
def State.readV (s : State) (x : Reg) : Byte := s.v[x.toNat]'x.isLt
/-- `V[x] <- b`. -/
def State.setV (s : State) (x : Reg) (b : Byte) : State := { s with v := s.v.set x.toNat b x.isLt }
/-- VF, the flag register (spec/10_state.md R21). -/
def flagReg : Reg := 0xF#4
/-- `pc <- t`. -/
def State.setPc (s : State) (t : Word) : State := { s with pc := t }
/-- `pc <- (pc + 2) mod 2^16` (spec/10_state.md R24). -/
def State.advance (s : State) : State := s.setPc (s.pc + 2#16)
/-- `I <- a`. -/
def State.setI (s : State) (a : Word) : State := { s with i := a }
/-- `waiting <- {valid 1, x}` or cleared (spec/10_state.md R32). -/
def State.setWaiting (s : State) (w : Option Reg) : State := { s with waiting := w }

/-! ### Timers (spec/60_exceptions.md R142, R143) -/

/-- `set(v)`: the running state is kept. -/
def Timer.set (t : Timer) (b : Byte) : Timer := { t with value := b }
/-- `start()`. -/
def Timer.start (t : Timer) : Timer := { t with run := true }
/-- `stop()`: the value is kept. -/
def Timer.stop (t : Timer) : Timer := { t with run := false }
/-- `create(v)` followed by `start()`, as reset does (spec/70_reset_and_hazards.md R157). -/
def Timer.create (b : Byte) : Timer := { value := b, run := true }
/-- One tick: a running timer above 0 counts down by 1 (R143). -/
def Timer.tick (t : Timer) : Timer := if t.run ∧ 0#8 < t.value then { t with value := t.value - 1#8 } else t
/-- A write of the delay timer. -/
def State.setDt (s : State) (t : Timer) : State := { s with dt := t }
/-- A write of the sound timer. -/
def State.setSt (s : State) (t : Timer) : State := { s with st := t }
/-- The `sound_timer` output (spec/10_state.md R28, spec/60_exceptions.md R147). -/
def State.soundTimer (s : State) : Byte := s.st.value

/-! ### The stack (spec/00_scope.md R12) -/

/-- The number of entries. -/
def State.depth (s : State) : Nat := s.stack.length
/-- `Push(v)`. -/
def State.push (s : State) (a : Word) : State := { s with stack := a :: s.stack }
/-- What `Pop()` leaves. -/
def State.dropTop (s : State) : State := { s with stack := s.stack.tail }

/-! ### Memory (spec/20_memory.md R45 to R56) -/

/-- An address is one of the font's 80 bytes (R47). -/
def inFont (p : Params) (a : Nat) : Bool := p.fontBase.val ≤ a && a < p.fontBase.val + Config.fontSize

/-- The font's byte at an address of the font (R47). -/
def fontByte (p : Params) (a : Nat) : Byte := p.fontGlyphs.getD (a - p.fontBase.val) 0#8

/-- What an address that memory does not list holds: the font's byte (R35, R47), elsewhere 0
(DESIGN CHOICE, unsafe: notes/assumptions/5). -/
def unlistedByte (p : Params) (a : Nat) : Byte := if inFont p a then fontByte p a else 0#8

/-- The byte at an address, `u` being what an unlisted one holds. -/
def Memory.get (u : Byte) (a : Nat) : Memory → Byte
  | [] => u
  | (b, w) :: m => if b = a then w else Memory.get u a m

/-- A cell put before the first cell with a larger address. -/
def Memory.insert (c : Host.Cell) : Memory → Memory
  | [] => [c]
  | d :: m => if c.1 < d.1 then c :: d :: m else d :: Memory.insert c m

/-- The byte at an address replaced, in the canonical form: a byte equal to what the unlisted address holds is not listed. -/
def Memory.put (u : Byte) (a : Nat) (b : Byte) (m : Memory) : Memory :=
  let rest := m.filter (fun c => c.1 != a)
  if b = u then rest else Memory.insert (a, b) rest

/-- The canonical form: addresses strictly rising and below 4096, no cell equal to what an unlisted address holds. -/
abbrev Memory.wf (p : Params) (m : Memory) : Prop :=
  List.Pairwise (fun c d => c.1 < d.1) m ∧ ∀ c ∈ m, c.1 ≤ Config.memTop ∧ c.2 ≠ unlistedByte p c.1

/-- `M[a]`, for an address of the array. -/
def State.byteAt (s : State) (a : Nat) : Byte := s.mem.get (unlistedByte s.params a) a

/-- `M[a] <- b`, with no check. -/
def State.setByte (s : State) (a : Nat) (b : Byte) : State :=
  { s with mem := s.mem.put (unlistedByte s.params a) a b }

/-- `MemRead(a, 1)` (R52): 0 above the top, and never a failure. -/
def State.memRead (s : State) (a : Nat) : Byte := if a ≤ Config.memTop then s.byteAt a else 0#8

/-- The answers of `MemWrite` (R53). -/
inductive WriteResult where
  | ok (s : State)
  | belowProgram
  | aboveTop
  deriving DecidableEq, Repr

/-- `MemWrite(a, 1, b)` (R53): only [0x200, 0xFFF] can be written. -/
def State.memWrite (s : State) (a : Nat) (b : Byte) : WriteResult :=
  if a < Config.progStart then .belowProgram
  else if Config.memTop < a then .aboveTop
  else .ok (s.setByte a b)

/-! ### The data inputs (spec/10_state.md R38 to R42) -/

/-- The values on the data inputs now: the ones the host holds, or free ones. -/
def State.inputs (s : State) : Ports :=
  match s.ports with
  | some p => p
  | none =>
    { keyState := Config.keyState s.inputIx, randByte := Config.randByte s.inputIx, drawResp := Config.drawResp s.inputIx }

/-- The data inputs have been read once: a later read of free ones is unrelated. -/
def State.nextInput (s : State) : State := { s with inputIx := s.inputIx + 1 }

/-- The host's values on the data inputs. -/
def State.setPorts (s : State) (p : Option Ports) : State := { s with ports := p }

/-! ### The outputs (spec/10_state.md R38) -/

/-- A request on `draw_req`, recorded in order (R39). -/
def State.emitDraw (s : State) (r : DrawRequest) : State := { s with draws := s.draws ++ [r] }
/-- An event on `log` (spec/00_scope.md R14). -/
def State.emitLog (s : State) (e : LogEvent) : State := { s with log := s.log ++ [e] }

/-- `fault.kind`'s code (spec/60_exceptions.md R132). -/
def FailureKind.code : FailureKind → BitVec 3
  | .decodeFailure => 1#3
  | .stackOverflow => 2#3
  | .stackUnderflow => 3#3
  | .memoryBoundsExceeded => 4#3
  | .writeProtected => 5#3

/-- The `status` output: the fields of spec/10_state.md R32, each in its own width. -/
structure Status where
  faultValid : BitVec 1
  faultKind : BitVec 3
  faultPc : Word
  faultWord : Word
  faultAddr : BitVec 17
  waitingValid : BitVec 1
  waitingX : BitVec 4
  dtRun : BitVec 1
  stRun : BitVec 1
  deriving DecidableEq, Repr

/-- The `status` output now (R32): every field of an absent failure or wait is 0. -/
def State.status (s : State) : Status where
  faultValid := BitVec.ofBool s.fault.isSome
  faultKind := (s.fault.map (fun f => f.kind.code)).getD 0#3
  faultPc := (s.fault.map FailureRecord.pc).getD 0#16
  faultWord := (s.fault.map FailureRecord.word).getD 0#16
  faultAddr := (s.fault.map FailureRecord.addr).getD 0#17
  waitingValid := BitVec.ofBool s.waiting.isSome
  waitingX := s.waiting.getD 0#4
  dtRun := BitVec.ofBool s.dt.run
  stRun := BitVec.ofBool s.st.run

/-! ### Failures (spec/60_exceptions.md R135) -/

/-- Taking a failure: the latch records the kind, the pc, the word and the address; nothing else changes, so the pc stays
at the failing instruction and the effects already performed stay. -/
def State.latchFailure (s : State) (k : FailureKind) (w : Word) (a : Nat) : State :=
  { s with fault := some { kind := k, pc := s.pc, word := w, addr := BitVec.ofNat 17 a } }

/-- The engine takes no step: a failure is latched, or a key is waited for (spec/30_encoding.md R88). -/
def State.halted (s : State) : Bool := s.fault.isSome || s.waiting.isSome

/-! ### Handler outcomes (spec/00_scope.md R13, spec/30_encoding.md R88) -/

/-- What a handler ends in. `stuck` is a draw request, of either kind, that the host has not answered
(spec/60_exceptions.md R153). -/
inductive HandlerOutcome where
  | next (s : State)
  | jumped (s : State)
  | blocked (s : State)
  | fail (k : FailureKind) (a : Nat) (s : State)
  | stuck (s : State)
  deriving DecidableEq, Repr

/-- The state after the pc policy of R88, for the handler of the instruction whose word is `w`. -/
def conclude (w : Word) : HandlerOutcome → State
  | .next s => s.advance
  | .jumped s => s
  | .blocked s => s
  | .fail k a s => s.latchFailure k w a
  | .stuck s => s

/-- An instruction's outcome as the host reads it. A failing instruction goes on to the halted state, so every outcome is
a next state. The recorded word is the instruction's own (DEDUCED: notes/assumptions/13). -/
def finish (i : Instr) (h : HandlerOutcome) : Host.Outcome State Fault Refusal := .next (conclude (encode i) h)

/-- `StoreByte` of spec/00_scope.md R11 for each cell in order: the first failing store ends the handler, and the stores
before it stay. -/
def storeAll : List Host.Cell → State → HandlerOutcome
  | [], s => .next s
  | (a, b) :: cs, s =>
    match s.memWrite a b with
    | .ok t => storeAll cs t
    | .belowProgram => .fail .writeProtected a s
    | .aboveTop => .fail .memoryBoundsExceeded a s

/-- The loads of spec/43_fx_timer_memory.md R114, in order: the first address above the top ends the handler, and the
registers loaded before it stay. -/
def loadAll : List (Nat × Reg) → State → HandlerOutcome
  | [], s => .next s
  | (a, r) :: rs, s =>
    if Config.memTop < a then .fail .memoryBoundsExceeded a s
    else loadAll rs (s.setV r (s.memRead a))

/-- `Draw(r)` (spec/00_scope.md R14, spec/10_state.md R39) with what the handler does once the answer c is there. Request and
answer are one transition, and without an answer the engine stays at this instruction (spec/60_exceptions.md R153); nothing
of the request shows before its answer (DEDUCED: notes/assumptions/11). The answer to a CLEAR arrives as a value on
`draw_resp` too (DEDUCED: notes/assumptions/22). -/
def State.draw (s : State) (r : DrawRequest) (answered : BitVec 1 → State → State) : HandlerOutcome :=
  match s.inputs.drawResp with
  | none => .stuck s.nextInput
  | some c => .next (answered c (s.nextInput.emitDraw r))

/-- A skip's handler: the extra pc + 2 where the condition holds, then NEXT (spec/30_encoding.md R90). -/
def skipWhen (c : Bool) (s : State) : HandlerOutcome := .next (if c then s.advance else s)

/-! ### Fetch (spec/30_encoding.md R88) -/

/-- The word at the pc, big-endian; pc + 1 is computed exactly (spec/20_memory.md R56, R57). -/
def State.fetchWord (s : State) : Word := wordOfBytes (s.memRead s.pc.toNat) (s.memRead (s.pc.toNat + 1))

/-- The step on an illegal word: DecodeFailure with address 0 (R88). -/
def State.decodeFailure (s : State) : State := s.latchFailure .decodeFailure s.fetchWord 0

end Sys2Proof.Machine
end

