-- ==== Sys2Proof/Machine/Operands.lean ====
section
/-! DEFINITION. The operand forms: address operands, effective addresses, font addresses, decimal digits, the cells a
store instruction writes, the slots a load instruction reads, a sprite's rows and the key query. -/

namespace Sys2Proof.Machine

/-- `zext_16(nnn)` (spec/30_encoding.md R80). -/
def zextAddr (nnn : Addr) : Word := nnn.setWidth 16

/-- An 8-bit value zero-extended to 16 bits. -/
def zextByte (b : Byte) : Word := b.setWidth 16

/-- The effective address I + k, over the naturals (spec/20_memory.md R56). -/
def State.effAddr (s : State) (k : Nat) : Nat := s.i.toNat + k

/-- `font_address(d) = FONT_BASE + 5 d` (spec/20_memory.md R48). -/
def fontAddr (p : Params) (d : Byte) : Word := BitVec.ofNat 16 (p.fontBase.val + Config.glyphBytes * d.toNat)

/-- The ones digit (spec/43_fx_timer_memory.md R112). -/
def onesDigit (b : Byte) : Byte := b % 10#8
/-- The tens digit. -/
def tensDigit (b : Byte) : Byte := (b / 10#8) % 10#8
/-- The hundreds digit. -/
def hundredsDigit (b : Byte) : Byte := b / 100#8

/-- The stores of binary-coded-decimal, in their order: I + 2, I + 1, I (R112). -/
def State.bcdCells (s : State) (b : Byte) : List Host.Cell :=
  [(s.effAddr 2, onesDigit b), (s.effAddr 1, tensDigit b), (s.effAddr 0, hundredsDigit b)]

/-- The indices 0 to x, ascending. -/
def regsUpTo (x : Reg) : List Nat := List.range (x.toNat + 1)

/-- The stores of save-registers, in their order (R113). -/
def State.saveCells (s : State) (x : Reg) : List Host.Cell :=
  (regsUpTo x).map (fun k => (s.effAddr k, s.readV (BitVec.ofNat 4 k)))

/-- The loads of restore-registers, in their order (R114). -/
def State.restoreSlots (s : State) (x : Reg) : List (Nat × Reg) :=
  (regsUpTo x).map (fun k => (s.effAddr k, BitVec.ofNat 4 k))

/-- The rows a sprite copies from an address: up to n bytes, stopping before the first address above the top
(spec/45_display.md R128). -/
def State.spriteRows (s : State) (a : Nat) : Nat → List Byte
  | 0 => []
  | n + 1 => if Config.memTop < a then [] else s.memRead a :: s.spriteRows (a + 1) n

/-- `KeyPressed(k)` on the level now on `key_state` (spec/10_state.md R40). -/
def State.keyPressed (s : State) (k : Nat) : Bool := s.inputs.keyState.getLsbD k

/-- A collision bit as the byte VF receives (spec/45_display.md R128). -/
def collisionByte (c : BitVec 1) : Byte := c.setWidth 8

end Sys2Proof.Machine
end

