-- ==== Sys2Proof/Machine/Fx.lean ====
section
/-! DEFINITION. The Fx family: timers, key wait, address register, decimal digits, save and restore
(spec/43_fx_timer_memory.md R106 to R114). -/

namespace Sys2Proof.Machine

/-- R106. -/
def execLoadDelayTimer (x : Reg) (s : State) : Host.Outcome State Fault Refusal :=
  finish (.loadDelayTimer x) (.next (s.setV x s.dt.value))

/-- R107, the handler: the engine blocks; `completeWait` ends the wait. -/
def execWaitForKey (x : Reg) (s : State) : Host.Outcome State Fault Refusal :=
  finish (.waitForKey x) (.blocked (s.setWaiting (some x)))

/-- R107, `WaitComplete(k)`: without a pending wait the event is ignored (spec/60_exceptions.md R150). -/
def State.completeWait (s : State) (k : Reg) : State :=
  match s.waiting with
  | some x => ((s.setV x (k.setWidth 8)).setWaiting none).advance
  | none => s

/-- R108. -/
def execSetDelayTimer (x : Reg) (s : State) : Host.Outcome State Fault Refusal :=
  finish (.setDelayTimer x) (.next (s.setDt (s.dt.set (s.readV x))))

/-- R109. -/
def execSetSoundTimer (x : Reg) (s : State) : Host.Outcome State Fault Refusal :=
  finish (.setSoundTimer x) (.next (s.setSt (s.st.set (s.readV x))))

/-- R110: 16-bit, no flag. -/
def execIncrementAddressRegister (x : Reg) (s : State) : Host.Outcome State Fault Refusal :=
  finish (.incrementAddressRegister x) (.next (s.setI (s.i + zextByte (s.readV x))))

/-- R111: a value of 16 or more leaves I unchanged. -/
def execFontAddress (x : Reg) (s : State) : Host.Outcome State Fault Refusal :=
  finish (.fontAddress x) (.next (if (s.readV x).toNat < 16 then s.setI (fontAddr s.params (s.readV x)) else s))

/-- R112. -/
def execBinaryCodedDecimal (x : Reg) (s : State) : Host.Outcome State Fault Refusal :=
  finish (.binaryCodedDecimal x) (storeAll (s.bcdCells (s.readV x)) s)

/-- R113: I is unchanged. -/
def execSaveRegisters (x : Reg) (s : State) : Host.Outcome State Fault Refusal :=
  finish (.saveRegisters x) (storeAll (s.saveCells x) s)

/-- R114: I is unchanged. -/
def execRestoreRegisters (x : Reg) (s : State) : Host.Outcome State Fault Refusal :=
  finish (.restoreRegisters x) (loadAll (s.restoreSlots x) s)

end Sys2Proof.Machine
end

