-- ==== Sys2Proof/Machine/Agents.lean ====
section
/-! DEFINITION. The agents beside the engine: the two tickers and the host (spec/60_exceptions.md R141 to R150), and
reset (spec/70_reset_and_hazards.md R156 to R158). -/

namespace Sys2Proof.Machine

/-- A `dt_tick`: it writes DT alone (R143, R149). -/
def State.delayTick (s : State) : State := s.setDt s.dt.tick
/-- An `st_tick`: it writes ST alone. -/
def State.soundTick (s : State) : State := s.setSt s.st.tick

/-- A launch input's cell is in a region of the array and outside the font. -/
def launchCell (p : Params) (lo hi : Nat) (c : Host.Cell) : Bool := lo ≤ c.1 && c.1 ≤ hi && !inFont p c.1

/-- The bytes of a launch input written into the array, the last one given for an address staying. -/
def loadCells (p : Params) (lo hi : Nat) (cells : List Host.Cell) (m : Memory) : Memory :=
  cells.foldl (fun m c => if launchCell p lo hi c then m.put (unlistedByte p c.1) c.1 c.2 else m) m

/-- Memory after reset: the font, RESERVED_FILL around it, and ROM_IMAGE (R157 steps 1 and 2). -/
def launchMemory (p : Params) (l : Launch) : Memory :=
  loadCells p Config.progStart Config.memTop l.romImage (loadCells p 0 (Config.progStart - 1) l.reservedFill [])

/-- Every piece of the block's state at its reset value, for these launch inputs (R156, R157). The parameters, the record
of the outputs and the model's own fields are no state of the block and stay. -/
def State.launch (s : State) (l : Launch) : State :=
  { s with
    mem := launchMemory s.params l
    v := l.v
    i := l.i
    stack := []
    dt := Timer.create l.dt
    st := Timer.create l.st
    fault := none
    waiting := none
    pc := BitVec.ofNat 16 Config.progStart }

/-- The launch inputs of `State.reset`. -/
def Launch.zero : Launch :=
  { v := Vector.replicate 16 0#8, i := 0#16, dt := 0#8, st := 0#8, reservedFill := [], romImage := [] }

/-- What a host action does (R150). -/
def hostAct (a : HostAction) (s : State) : Host.Outcome State Fault Refusal :=
  match a with
  | .keyPress k => .next (s.completeWait k)
  | .delayStart => .next (s.setDt s.dt.start)
  | .delayStop => .next (s.setDt s.dt.stop)
  | .soundStart => .next (s.setSt s.st.start)
  | .soundStop => .next (s.setSt s.st.stop)
  | .reset l => .next (s.launch l)
  | .shutDown => .fault .shutDown

/-- The host takes its values off the data inputs after the step it granted. -/
def releasePorts (o : Host.Outcome State Fault Refusal) : Host.Outcome State Fault Refusal :=
  match o with
  | .next s => .next (s.setPorts none)
  | .fault f => .fault f
  | .refused r => .refused r

/-- The state with a word placed where the engine fetches next, and the engine free to take its turn: no failure latched,
no wait, no other agent's turn before it. A pc whose two bytes are not both in the array is moved to 0x200
(notes/assumptions/7). -/
def State.placeWord (s : State) (w : Word) : State :=
  let pc := if s.pc.toNat < Config.memTop then s.pc else BitVec.ofNat 16 Config.progStart
  let t := { s with pc := pc, fault := none, waiting := none, turns := [] }
  (t.setByte pc.toNat (w.extractLsb' 8 8)).setByte (pc.toNat + 1) (w.extractLsb' 0 8)

end Sys2Proof.Machine
end

