-- ==== Sys2Proof/Machine/Address.lean ====
section
/-! DEFINITION. The address family and return (spec/41_address.md R93 to R98). -/

namespace Sys2Proof.Machine

/-- R93: logged, otherwise no effect. -/
def execSys (nnn : Addr) (s : State) : Host.Outcome State Fault Refusal :=
  finish (.sys nnn) (.next (s.emitLog (.illegalSystemCall s.pc nnn)))

/-- R94. -/
def execJump (nnn : Addr) (s : State) : Host.Outcome State Fault Refusal :=
  finish (.jump nnn) (.jumped (s.setPc (zextAddr nnn)))

/-- R95: pushes the address of the call itself; StackOverflow when the stack is full (R12: Push only below capacity). -/
def execCall (nnn : Addr) (s : State) : Host.Outcome State Fault Refusal :=
  finish (.call nnn) (if s.depth < Config.stackDepth then .jumped ((s.push s.pc).setPc (zextAddr nnn))
    else .fail .stackOverflow 0 s)

/-- R96: the popped address is the call's own, and the auto-increment passes it. -/
def execRet (s : State) : Host.Outcome State Fault Refusal :=
  finish .ret (match s.stack with
    | [] => .fail .stackUnderflow 0 s
    | a :: _ => .next (s.dropTop.setPc a))

/-- R97. -/
def execLoadAddress (nnn : Addr) (s : State) : Host.Outcome State Fault Refusal :=
  finish (.loadAddress nnn) (.next (s.setI (zextAddr nnn)))

/-- R98: the offset is always V0. -/
def execJumpOffset (nnn : Addr) (s : State) : Host.Outcome State Fault Refusal :=
  finish (.jumpOffset nnn) (.jumped (s.setPc (zextAddr nnn + zextByte (s.readV 0#4))))

end Sys2Proof.Machine
end

