-- ==== Sys2Proof/Machine/Flags.lean ====
section
/-! DEFINITION. The flag computations: the values VF receives (spec/44_register.md R119 to R123). -/

namespace Sys2Proof.Machine

/-- A condition as a flag value. -/
def flagOf (c : Bool) : Byte := if c then 1#8 else 0#8

/-- The carry of add: the sum is less than the destination was (R119). -/
def carryFlag (a b : Byte) : Byte := flagOf (a + b < a)

/-- No borrow: the minuend is not less than the subtrahend (R120, R122). -/
def noBorrowFlag (a b : Byte) : Byte := flagOf (b ≤ a)

/-- The bit shr shifts out (R121). -/
def lowBit (a : Byte) : Byte := a &&& 1#8

/-- The bit shl shifts out (R123). -/
def highBit (a : Byte) : Byte := a >>> 7

/-- `V[15] <- f`. -/
def State.setFlag (s : State) (f : Byte) : State := s.setV flagReg f

end Sys2Proof.Machine
end

