-- ==== Sys2Proof/Machine/Display.lean ====
section
/-! DEFINITION. The display requests (spec/45_display.md R127, R128). -/

namespace Sys2Proof.Machine

/-- R127: the value of the response is ignored; the handler ends when it arrives (spec/60_exceptions.md R153,
spec/70_reset_and_hazards.md R170). -/
def execClearScreen (s : State) : Host.Outcome State Fault Refusal :=
  finish .clearScreen (s.draw .clear (fun _ t => t))

/-- The log entry of a sprite copy that stopped early (R128). -/
def State.logTruncation (s : State) (requested copied : Nat) : State :=
  if copied < requested then s.emitLog (.spriteTruncated s.pc requested copied) else s

/-- R128: the rows are copied and the request is issued with the origin read before VF is written. -/
def execDrawSprite (x y n : Reg) (s : State) : Host.Outcome State Fault Refusal :=
  let rows := s.spriteRows (s.effAddr 0) n.toNat
  finish (.drawSprite x y n) (s.draw (.sprite (s.readV x) (s.readV y) rows) (fun c t =>
    (t.logTruncation n.toNat rows.length).setFlag (collisionByte c)))

end Sys2Proof.Machine
end

