-- ==== Sys2Proof/Machine/Immediate.lean ====
section
/-! DEFINITION. The immediate family (spec/42_immediate.md R99 to R105). -/

namespace Sys2Proof.Machine

/-- R99. -/
def execSkipEqualImmediate (x : Reg) (kk : Byte) (s : State) : Host.Outcome State Fault Refusal :=
  finish (.skipEqualImmediate x kk) (skipWhen (s.readV x == kk) s)

/-- R100. -/
def execSkipNotEqualImmediate (x : Reg) (kk : Byte) (s : State) : Host.Outcome State Fault Refusal :=
  finish (.skipNotEqualImmediate x kk) (skipWhen (s.readV x != kk) s)

/-- R101. -/
def execLoadImmediate (x : Reg) (kk : Byte) (s : State) : Host.Outcome State Fault Refusal :=
  finish (.loadImmediate x kk) (.next (s.setV x kk))

/-- R102: wraps, and writes no flag. -/
def execAddImmediate (x : Reg) (kk : Byte) (s : State) : Host.Outcome State Fault Refusal :=
  finish (.addImmediate x kk) (.next (s.setV x (s.readV x + kk)))

/-- R103: one fresh byte per execution, masked. -/
def execRandom (x : Reg) (kk : Byte) (s : State) : Host.Outcome State Fault Refusal :=
  finish (.random x kk) (.next (s.nextInput.setV x (s.inputs.randByte &&& kk)))

/-- R104: a value of 16 or more is not queried and never skips. -/
def execSkipIfKeyPressed (x : Reg) (s : State) : Host.Outcome State Fault Refusal :=
  let k := (s.readV x).toNat
  finish (.skipIfKeyPressed x)
    (if k < Config.numKeys then skipWhen (s.keyPressed k) s.nextInput else skipWhen false s)

/-- R105: a value of 16 or more is not queried and never skips. -/
def execSkipIfKeyNotPressed (x : Reg) (s : State) : Host.Outcome State Fault Refusal :=
  let k := (s.readV x).toNat
  finish (.skipIfKeyNotPressed x)
    (if k < Config.numKeys then skipWhen (!s.keyPressed k) s.nextInput else skipWhen false s)

end Sys2Proof.Machine
end

