-- ==== Sys2Proof/Machine/Register.lean ====
section
/-! DEFINITION. The register family (spec/44_register.md R115 to R126). Writes happen in the order of the rule's text,
which fixes what VF ends as when it is an operand (R126). -/

namespace Sys2Proof.Machine

/-- R115. -/
def execMove (x y : Reg) (s : State) : Host.Outcome State Fault Refusal :=
  finish (.move x y) (.next (s.setV x (s.readV y)))

/-- R116: no flag. -/
def execOr (x y : Reg) (s : State) : Host.Outcome State Fault Refusal :=
  finish (.or x y) (.next (s.setV x (s.readV x ||| s.readV y)))

/-- R117: no flag. -/
def execAnd (x y : Reg) (s : State) : Host.Outcome State Fault Refusal :=
  finish (.and x y) (.next (s.setV x (s.readV x &&& s.readV y)))

/-- R118: no flag. -/
def execXor (x y : Reg) (s : State) : Host.Outcome State Fault Refusal :=
  finish (.xor x y) (.next (s.setV x (s.readV x ^^^ s.readV y)))

/-- R119: the sum, then the carry. -/
def execAdd (x y : Reg) (s : State) : Host.Outcome State Fault Refusal :=
  finish (.add x y) (.next ((s.setV x (s.readV x + s.readV y)).setFlag (carryFlag (s.readV x) (s.readV y))))

/-- The subtraction of R120 and R122: the difference a - b into `d`, then the no-borrow flag. -/
def subtractInto (d : Reg) (a b : Byte) (s : State) : State := (s.setV d (a - b)).setFlag (noBorrowFlag a b)

/-- R120. -/
def execSub (x y : Reg) (s : State) : Host.Outcome State Fault Refusal :=
  finish (.sub x y) (.next (subtractInto x (s.readV x) (s.readV y) s))

/-- R121: the flag, then the shift of V[x] read again. -/
def execShr (x y : Reg) (s : State) : Host.Outcome State Fault Refusal :=
  let t := s.setFlag (lowBit (s.readV x))
  finish (.shr x y) (.next (t.setV x (t.readV x >>> 1)))

/-- The register subn writes (R122, `SUBN_DEST`). -/
def subnTarget (d : SubnDest) (x y : Reg) : Reg :=
  match d with
  | .x => x
  | .y => y

/-- R122: V[y] - V[x]. -/
def execSubn (x y : Reg) (s : State) : Host.Outcome State Fault Refusal :=
  finish (.subn x y) (.next (subtractInto (subnTarget s.params.subnDest x y) (s.readV y) (s.readV x) s))

/-- R123: the flag, then the shift of V[x] read again. -/
def execShl (x y : Reg) (s : State) : Host.Outcome State Fault Refusal :=
  let t := s.setFlag (highBit (s.readV x))
  finish (.shl x y) (.next (t.setV x (t.readV x <<< 1)))

/-- R124. -/
def execSkipIfEqual (x y : Reg) (s : State) : Host.Outcome State Fault Refusal :=
  finish (.skipIfEqual x y) (skipWhen (s.readV x == s.readV y) s)

/-- R125. -/
def execSkipIfNotEqual (x y : Reg) (s : State) : Host.Outcome State Fault Refusal :=
  finish (.skipIfNotEqual x y) (skipWhen (s.readV x != s.readV y) s)

end Sys2Proof.Machine
end

