-- ==== Sys2Proof/Machine/Dispatch.lean ====
section
/-! DEFINITION. The dispatch of an instruction to its meaning (spec/30_encoding.md R77, R78): one arm per constructor. -/

namespace Sys2Proof.Machine

def exec (i : Instr) (s : State) : Host.Outcome State Fault Refusal :=
  match i with
  | .sys nnn => Sys2Proof.Machine.execSys nnn s
  | .jump nnn => Sys2Proof.Machine.execJump nnn s
  | .call nnn => Sys2Proof.Machine.execCall nnn s
  | .ret => Sys2Proof.Machine.execRet s
  | .loadAddress nnn => Sys2Proof.Machine.execLoadAddress nnn s
  | .jumpOffset nnn => Sys2Proof.Machine.execJumpOffset nnn s
  | .skipEqualImmediate x kk => Sys2Proof.Machine.execSkipEqualImmediate x kk s
  | .skipNotEqualImmediate x kk => Sys2Proof.Machine.execSkipNotEqualImmediate x kk s
  | .loadImmediate x kk => Sys2Proof.Machine.execLoadImmediate x kk s
  | .addImmediate x kk => Sys2Proof.Machine.execAddImmediate x kk s
  | .random x kk => Sys2Proof.Machine.execRandom x kk s
  | .skipIfKeyPressed x => Sys2Proof.Machine.execSkipIfKeyPressed x s
  | .skipIfKeyNotPressed x => Sys2Proof.Machine.execSkipIfKeyNotPressed x s
  | .loadDelayTimer x => Sys2Proof.Machine.execLoadDelayTimer x s
  | .waitForKey x => Sys2Proof.Machine.execWaitForKey x s
  | .setDelayTimer x => Sys2Proof.Machine.execSetDelayTimer x s
  | .setSoundTimer x => Sys2Proof.Machine.execSetSoundTimer x s
  | .incrementAddressRegister x => Sys2Proof.Machine.execIncrementAddressRegister x s
  | .fontAddress x => Sys2Proof.Machine.execFontAddress x s
  | .binaryCodedDecimal x => Sys2Proof.Machine.execBinaryCodedDecimal x s
  | .saveRegisters x => Sys2Proof.Machine.execSaveRegisters x s
  | .restoreRegisters x => Sys2Proof.Machine.execRestoreRegisters x s
  | .move x y => Sys2Proof.Machine.execMove x y s
  | .or x y => Sys2Proof.Machine.execOr x y s
  | .and x y => Sys2Proof.Machine.execAnd x y s
  | .xor x y => Sys2Proof.Machine.execXor x y s
  | .add x y => Sys2Proof.Machine.execAdd x y s
  | .sub x y => Sys2Proof.Machine.execSub x y s
  | .shr x y => Sys2Proof.Machine.execShr x y s
  | .subn x y => Sys2Proof.Machine.execSubn x y s
  | .shl x y => Sys2Proof.Machine.execShl x y s
  | .skipIfEqual x y => Sys2Proof.Machine.execSkipIfEqual x y s
  | .skipIfNotEqual x y => Sys2Proof.Machine.execSkipIfNotEqual x y s
  | .clearScreen => Sys2Proof.Machine.execClearScreen s
  | .drawSprite x y n => Sys2Proof.Machine.execDrawSprite x y n s

end Sys2Proof.Machine
end

