-- ==== Sys2Proof/Machine/Step.lean ====
section
/-! DEFINITION. One step of the machine: one turn of one agent (spec/60_exceptions.md R149), the engine's being `Step` of
spec/30_encoding.md R88. -/

namespace Sys2Proof.Machine

/-- The engine's turn (R88): none while a failure is latched or a key is waited for; otherwise fetch, decode, and run the
instruction or latch a DecodeFailure. -/
def engineStep (s : State) : Host.Outcome State Fault Refusal :=
  if s.halted then .next s
  else
    match decode s.fetchWord with
    | .ok i => exec i s
    | .reject _ => .next s.decodeFailure

/-- One turn: the next one listed, and the engine's when none is (notes/assumptions/8). -/
def step (s : State) : Host.Outcome State Fault Refusal :=
  match s.turns with
  | [] => engineStep s
  | .engine p :: rest => releasePorts (engineStep { s with turns := rest, ports := p })
  | .delayTick :: rest => .next (State.delayTick { s with turns := rest })
  | .soundTick :: rest => .next (State.soundTick { s with turns := rest })
  | .host a :: rest => hostAct a { s with turns := rest }

/-- The state with a table word placed where `step` fetches next (`State.placeWord`). -/
def State.withFetchWord (s : State) (nbits w : Nat) : State := s.placeWord (BitVec.ofNat 16 (w % 2 ^ nbits))

end Sys2Proof.Machine
end

