-- ==== Sys2Proof/Safety.lean ====
section
/-! DEFINITION. What counts as a safe run, in the terms claims use: the launch predicate (spec/70_reset_and_hazards.md
R161), the end of a run (R162), the invariant of the machine, and which state each instruction may write
(spec/10_state.md R22, R26 to R30, spec/60_exceptions.md R134). -/

namespace Sys2Proof.Machine

/-- Every byte of the font is its glyph's (spec/20_memory.md R47). -/
def State.FontIntact (s : State) : Prop :=
  ∀ k : Fin 80, s.byteAt (s.params.fontBase.val + k.val) = s.params.fontGlyphs[k.val]

/-- A launch state (R161); everything it does not name is a launch input. -/
structure State.Launched (s : State) : Prop where
  noFault : s.fault = none
  noWait : s.waiting = none
  stackEmpty : s.depth = 0
  entry : s.pc = 0x200#16
  font : s.FontIntact

/-- The byte a launch input gives an address: the last one listed for it, 0 where none is (notes/assumptions/17). -/
def listedByte (cells : List Host.Cell) (a : Nat) : Byte :=
  ((cells.reverse.find? (fun c => c.1 == a)).map Prod.snd).getD 0#8

/-- The run has ended in a failure (R162). -/
def State.Faulted (s : State) : Prop := s.fault.isSome = true

/-- The run has ended in a spin: a jump to itself is next (R162). -/
def State.Spinning (s : State) : Prop :=
  s.halted = false ∧ ∃ nnn, s.fetchWord = encode (.jump nnn) ∧ zextAddr nnn = s.pc

/-- The run has ended (R162). -/
def State.Ended (s : State) : Prop := s.Faulted ∨ s.Spinning

/-- A recorded failure is one a step can record (spec/60_exceptions.md R132, spec/10_state.md R32): an address only for the
two memory kinds, past the top up to 0x10001 for one, below the program region for the other. -/
def FailureRecord.Possible (f : FailureRecord) : Prop :=
  match f.kind with
  | .decodeFailure | .stackOverflow | .stackUnderflow => f.addr = 0#17
  | .memoryBoundsExceeded => Config.memTop < f.addr.toNat ∧ f.addr.toNat ≤ 0x10001
  | .writeProtected => f.addr.toNat < Config.progStart

/-- What holds in every state a run reaches. -/
structure State.Inv (s : State) : Prop where
  /-- Memory is in its canonical form. -/
  memory : Memory.wf s.params s.mem
  /-- The font is never overwritten (spec/20_memory.md R47). -/
  font : s.FontIntact
  /-- "depth never exceeds capacity" (spec/10_state.md R30). -/
  stack : s.depth ≤ Config.stackDepth
  /-- The engine is never both failed and waiting. -/
  latches : ¬ (s.fault.isSome = true ∧ s.waiting.isSome = true)
  /-- The failure latch holds a failure a step can record. -/
  failure : ∀ f, s.fault = some f → f.Possible

end Sys2Proof.Machine

namespace Sys2Proof

open Sys2Proof.Machine

/-! ### Which state an instruction writes -/

/-- The general registers an instruction writes: the last column of spec/10_state.md R22. -/
def Instr.registersWritten (p : Params) : Instr → List Reg
  | .sys _ | .jump _ | .call _ | .ret | .loadAddress _ | .jumpOffset _ | .clearScreen => []
  | .skipEqualImmediate _ _ | .skipNotEqualImmediate _ _ | .skipIfKeyPressed _ | .skipIfKeyNotPressed _ => []
  | .skipIfEqual _ _ | .skipIfNotEqual _ _ => []
  | .loadImmediate x _ | .addImmediate x _ | .random x _ | .loadDelayTimer x => [x]
  | .setDelayTimer _ | .setSoundTimer _ | .incrementAddressRegister _ | .fontAddress _ => []
  | .binaryCodedDecimal _ | .saveRegisters _ => []
  | .waitForKey _ => []
  | .restoreRegisters x => (regsUpTo x).map (BitVec.ofNat 4)
  | .move x _ | .or x _ | .and x _ | .xor x _ => [x]
  | .add x _ | .sub x _ | .shr x _ | .shl x _ => [x, flagReg]
  | .subn x y => [subnTarget p.subnDest x y, flagReg]
  | .drawSprite _ _ _ => [flagReg]

/-- The addresses an instruction may store to (spec/20_memory.md R54), from the functions its meaning uses. -/
def Instr.storeAddresses (s : State) : Instr → List Nat
  | .binaryCodedDecimal x => (s.bcdCells (s.readV x)).map Prod.fst
  | .saveRegisters x => (s.saveCells x).map Prod.fst
  | .sys _ | .jump _ | .call _ | .ret | .loadAddress _ | .jumpOffset _ | .clearScreen => []
  | .skipEqualImmediate _ _ | .skipNotEqualImmediate _ _ | .skipIfKeyPressed _ | .skipIfKeyNotPressed _ => []
  | .skipIfEqual _ _ | .skipIfNotEqual _ _ | .loadImmediate _ _ | .addImmediate _ _ | .random _ _ => []
  | .loadDelayTimer _ | .waitForKey _ | .setDelayTimer _ | .setSoundTimer _ | .incrementAddressRegister _ => []
  | .fontAddress _ | .restoreRegisters _ | .drawSprite _ _ _ => []
  | .move _ _ | .or _ _ | .and _ _ | .xor _ _ | .add _ _ | .sub _ _ | .shr _ _ | .subn _ _ | .shl _ _ => []

/-- The instructions that write I (spec/10_state.md R26). -/
def Instr.writesI : Instr → Bool
  | .loadAddress _ | .incrementAddressRegister _ | .fontAddress _ => true
  | _ => false

/-- The instructions that touch the stack (spec/10_state.md R30). -/
def Instr.writesStack : Instr → Bool
  | .call _ | .ret => true
  | _ => false

/-- The instruction that writes DT (spec/10_state.md R27). -/
def Instr.writesDelayTimer : Instr → Bool
  | .setDelayTimer _ => true
  | _ => false

/-- The instruction that writes ST (spec/10_state.md R28). -/
def Instr.writesSoundTimer : Instr → Bool
  | .setSoundTimer _ => true
  | _ => false

/-- The instructions that can fail (spec/60_exceptions.md R134). -/
def Instr.canFail : Instr → Bool
  | .call _ | .ret | .binaryCodedDecimal _ | .saveRegisters _ | .restoreRegisters _ => true
  | _ => false

/-- The instruction that starts a key wait (spec/43_fx_timer_memory.md R107). -/
def Instr.waits : Instr → Bool
  | .waitForKey _ => true
  | _ => false

/-- The instructions that issue a draw request (spec/45_display.md R127, R128). -/
def Instr.draws : Instr → Bool
  | .clearScreen | .drawSprite _ _ _ => true
  | _ => false

/-- The instructions that can write the log (spec/60_exceptions.md R133). -/
def Instr.logs : Instr → Bool
  | .sys _ | .drawSprite _ _ _ => true
  | _ => false

/-- The instructions that may pass over the next word (spec/10_state.md R24, spec/30_encoding.md R90). -/
def Instr.skips : Instr → Bool
  | .skipEqualImmediate _ _ | .skipNotEqualImmediate _ _ | .skipIfKeyPressed _ | .skipIfKeyNotPressed _ => true
  | .skipIfEqual _ _ | .skipIfNotEqual _ _ => true
  | _ => false

/-- The instructions that read a data input (spec/10_state.md R39, R40, R42), the answer to a CLEAR among them. -/
def Instr.readsInput : Instr → Bool
  | .random _ _ | .skipIfKeyPressed _ | .skipIfKeyNotPressed _ | .clearScreen | .drawSprite _ _ _ => true
  | _ => false

end Sys2Proof

namespace Sys2Proof.Machine

/-- Two states hold the same bytes in memory, address by address. -/
def State.SameBytes (s t : State) : Prop := ∀ a, t.memRead a = s.memRead a

end Sys2Proof.Machine
end

