-- ==== Sys2Proof/Certificates/Slice0/Obligations.lean ====
section
/-! DEFINITION. The statements for the provers. A statement of an instruction's effect says that exec answers a next state
`t`, that `t` is the old state but for the fields it names, and what those fields hold. -/

open Sys2Proof Sys2Proof.Machine

/-! ### Encoding -/

/-- Every well-formed instruction is read back from its own word, with every operand at every value (R68 to R77). -/
def Obligations.DecodeOfEncodeIsTheInstruction : Prop :=
  ∀ i : Instr, i.wf = true → decode (encode i) = .ok i

/-- Every word that decodes is the word of the instruction it decodes to, that instruction is well-formed, and the word's
class is the instruction's (R70, R71). -/
def Obligations.EncodeOfDecodeIsTheWord : Prop :=
  ∀ (w : Word) (i : Instr), decode w = .ok i → i.wf = true ∧ encode i = w ∧ classOf w = i.format

/-- The illegal words are those of R81's table, as numbers: 5xyd and 9xyd with d ≠ 0 (the spec's own decision D5), 8xyd with
d in 8 to D or F, Exkk and Fxkk with kk none of the sub-opcodes (D6). -/
def Obligations.IllegalWordsAreThoseOfTheTable : Prop :=
  ∀ w : Word, (∃ why, decode w = .reject why) ↔
    (w.toNat / 4096 = 5 ∧ w.toNat % 16 ≠ 0) ∨
    (w.toNat / 4096 = 9 ∧ w.toNat % 16 ≠ 0) ∨
    (w.toNat / 4096 = 8 ∧ 8 ≤ w.toNat % 16 ∧ w.toNat % 16 ≠ 14) ∨
    (w.toNat / 4096 = 14 ∧ w.toNat % 256 ∉ [0x9E, 0xA1]) ∨
    (w.toNat / 4096 = 15 ∧ w.toNat % 256 ∉ [0x07, 0x0A, 0x15, 0x18, 0x1E, 0x29, 0x33, 0x55, 0x65])

/-- Words written out from the encodings of R77, one or more per family, decode to what they stand for; two neighbours of
them are illegal. -/
def Obligations.WordsOfTheSpecDecode : Prop :=
  decode 0x0123#16 = .ok (.sys 0x123#12) ∧ decode 0x00EE#16 = .ok .ret ∧ decode 0x2ABC#16 = .ok (.call 0xABC#12) ∧
  decode 0x3A7F#16 = .ok (.skipEqualImmediate 0xA#4 0x7F#8) ∧ decode 0xE1A1#16 = .ok (.skipIfKeyNotPressed 0x1#4) ∧
  decode 0xF533#16 = .ok (.binaryCodedDecimal 0x5#4) ∧ decode 0x8017#16 = .ok (.subn 0x0#4 0x1#4) ∧
  decode 0x9120#16 = .ok (.skipIfNotEqual 0x1#4 0x2#4) ∧ decode 0x00E0#16 = .ok .clearScreen ∧
  decode 0xD12F#16 = .ok (.drawSprite 0x1#4 0x2#4 0xF#4) ∧
  decode 0x812F#16 = .reject (.illegal8 0x812F#16) ∧ decode 0xF1FF#16 = .reject (.illegalF 0xF1FF#16)

/-! ### The step -/

/-- The fetched word: the byte at pc is bits 15 to 8 (the spec's own decision D1), and no byte exists above 0xFFF (R92). -/
def Obligations.FetchIsBigEndianAndNeverFails : Prop :=
  ∀ s : State, s.fetchWord.toNat = (s.memRead s.pc.toNat).toNat * 256 + (s.memRead (s.pc.toNat + 1)).toNat ∧
    (0x1000 ≤ s.pc.toNat → decode s.fetchWord = .ok (.sys 0#12))

/-- With no failure latched and no key waited for, a step is exec of the instruction at the pc. A granted turn puts the
host's values on the data inputs for it, and takes them off afterwards (the model's choice: notes/assumptions/10). -/
def Obligations.StepRunsTheDecodedInstruction : Prop :=
  ∀ (s : State) (i : Instr), s.fault = none → s.waiting = none → decode s.fetchWord = .ok i →
    (s.turns = [] → step s = exec i s) ∧
    ∀ (p : Option Ports) (rest : List Turn), s.turns = .engine p :: rest →
      ∃ t, exec i { s with turns := rest, ports := p } = .next t ∧ step s = .next { t with ports := none }

/-- A word that decodes, placed where the engine fetches, is the instruction the next step runs, from every state. -/
def Obligations.PlacedWordIsFetchedAndRun : Prop :=
  ∀ (s : State) (w : Word) (i : Instr), decode w = .ok i →
    step (s.withFetchWord 16 w.toNat) = exec i (s.withFetchWord 16 w.toNat)

/-- An illegal word latches DecodeFailure with the pc and the word and changes nothing else (the spec's own decision D7); a
granted turn is used up and its inputs are taken off (the model's choice: notes/assumptions/8 and 10). -/
def Obligations.IllegalWordLatchesDecodeFailure : Prop :=
  ∀ (s : State) (why : DecodeReject), s.fault = none → s.waiting = none → decode s.fetchWord = .reject why →
    (s.turns = [] → step s = .next
      { s with fault := some { kind := .decodeFailure, pc := s.pc, word := s.fetchWord, addr := 0#17 } }) ∧
    ∀ (p : Option Ports) (rest : List Turn), s.turns = .engine p :: rest → step s = .next
      { s with turns := rest, ports := none,
               fault := some { kind := .decodeFailure, pc := s.pc, word := s.fetchWord, addr := 0#17 } }

/-- A failed or waiting engine takes no step, granted or not (R88; the halting is the spec's own decision D7, the waiting
D20); a granted turn is used up and its inputs are taken off (the model's choice: notes/assumptions/8 and 10). -/
def Obligations.HaltedEngineTakesNoStep : Prop :=
  ∀ s : State, (s.fault.isSome = true ∨ s.waiting.isSome = true) →
    (s.turns = [] → step s = .next s) ∧
    ∀ (p : Option Ports) (rest : List Turn), s.turns = .engine p :: rest →
      step s = .next { s with turns := rest, ports := none }

/-- A latched failure stays, and the engine's registers, stack and memory with it, under every turn of every agent but a
reset (the spec's own decision D39). The premise that no key is waited for is part of `State.Inv`. -/
def Obligations.FailureIsLeftOnlyByReset : Prop :=
  ∀ (s t : State) (f : FailureRecord), s.fault = some f → s.waiting = none →
    (∀ l rest, s.turns ≠ .host (.reset l) :: rest) → step s = .next t →
    t.fault = some f ∧ t.waiting = none ∧ t.v = s.v ∧ t.pc = s.pc ∧ t.i = s.i ∧ t.stack = s.stack ∧ t.mem = s.mem ∧
    t.draws = s.draws ∧ t.log = s.log

/-! ### The address family -/

/-- sys is a logged no-op (R93). -/
def Obligations.SysIsALoggedNoOp : Prop :=
  ∀ (nnn : Addr) (s : State), ∃ t, exec (.sys nnn) s = .next t ∧
    t = { s with pc := s.pc + 2#16, log := s.log ++ [.illegalSystemCall s.pc nnn] }

/-- jump is 1nnn; it sets the pc to its address and nothing else (R94). -/
def Obligations.JumpSetsThePcToItsAddress : Prop :=
  ∀ (nnn : Addr) (s : State), decode (0x1#4 ++ nnn) = .ok (.jump nnn) ∧ ∃ t, exec (.jump nnn) s = .next t ∧ t = { s with pc := t.pc } ∧ t.pc.toNat = nnn.toNat

/-- call below capacity pushes its own address and jumps (R95). -/
def Obligations.CallPushesItsOwnAddress : Prop :=
  ∀ (nnn : Addr) (s : State), s.depth < 16 → ∃ t, exec (.call nnn) s = .next t ∧
    t = { s with pc := t.pc, stack := s.pc :: s.stack } ∧ t.pc.toNat = nnn.toNat

/-- return pops the latest entry and goes two past it (R96). -/
def Obligations.ReturnGoesTwoPastThePoppedAddress : Prop :=
  ∀ (s : State) (a : Word) (rest : List Word), s.stack = a :: rest → ∃ t, exec .ret s = .next t ∧
    t = { s with pc := a + 2#16, stack := rest }

/-- call on a full stack and return on an empty one latch their failure and change nothing else (R95, R96; the latch is the
spec's own decision D7). -/
def Obligations.StackFailuresChangeNothingElse : Prop :=
  (∀ (nnn : Addr) (s : State), s.depth = 16 → exec (.call nnn) s =
    .next { s with fault := some { kind := .stackOverflow, pc := s.pc, word := encode (.call nnn), addr := 0#17 } }) ∧
  ∀ s : State, s.depth = 0 → exec .ret s =
    .next { s with fault := some { kind := .stackUnderflow, pc := s.pc, word := 0x00EE#16, addr := 0#17 } }

/-- A call and the return that matches it resume at the instruction after the call with the stack as it was (R95, R96). -/
def Obligations.CallThenReturnResumesAfterTheCall : Prop :=
  ∀ (nnn : Addr) (s : State), s.depth < 16 → ∃ t, exec (.call nnn) s = .next t ∧
    ∀ u : State, u.stack = t.stack → ∃ r, exec .ret u = .next r ∧ r.pc = s.pc + 2#16 ∧ r.stack = s.stack

/-- load-address is Annn; it overwrites I and goes to the next instruction (R97). -/
def Obligations.LoadAddressSetsI : Prop :=
  ∀ (nnn : Addr) (s : State), decode (0xA#4 ++ nnn) = .ok (.loadAddress nnn) ∧ ∃ t, exec (.loadAddress nnn) s = .next t ∧
    t = { s with pc := s.pc + 2#16, i := t.i } ∧ t.i.toNat = nnn.toNat

/-- jump-offset is Bnnn; it adds V0 to its address, with no reduction to 12 bits (R98). -/
def Obligations.JumpOffsetAddsV0 : Prop :=
  ∀ (nnn : Addr) (s : State), decode (0xB#4 ++ nnn) = .ok (.jumpOffset nnn) ∧ ∃ t, exec (.jumpOffset nnn) s = .next t ∧
    t = { s with pc := t.pc } ∧ t.pc.toNat = nnn.toNat + (s.readV 0#4).toNat

/-! ### The immediate family -/

/-- The immediate skips pass one word exactly when their condition holds, and write the pc alone (R99, R100). -/
def Obligations.ImmediateSkipsPassOneWord : Prop :=
  ∀ (x : Reg) (kk : Byte) (s : State),
    (∃ t, exec (.skipEqualImmediate x kk) s = .next t ∧
      t = { s with pc := if s.readV x = kk then s.pc + 4#16 else s.pc + 2#16 }) ∧
    (∃ t, exec (.skipNotEqualImmediate x kk) s = .next t ∧
      t = { s with pc := if s.readV x = kk then s.pc + 2#16 else s.pc + 4#16 })

/-- load-immediate writes its register, and add-immediate adds to it modulo 256; neither writes a flag (R101, R102). -/
def Obligations.ImmediateLoadAndAddWriteOneRegister : Prop :=
  ∀ (x : Reg) (kk : Byte) (s : State),
    (∃ t, exec (.loadImmediate x kk) s = .next t ∧ t = { s with pc := s.pc + 2#16, v := t.v } ∧
      ∀ r, t.readV r = if r = x then kk else s.readV r) ∧
    (∃ t, exec (.addImmediate x kk) s = .next t ∧ t = { s with pc := s.pc + 2#16, v := t.v } ∧
      (t.readV x).toNat = ((s.readV x).toNat + kk.toNat) % 256 ∧ ∀ r, r ≠ x → t.readV r = s.readV r)

/-- random writes the byte on rand_byte, masked; no bit outside the mask is ever set (R103). -/
def Obligations.RandomMasksTheByteSupplied : Prop :=
  ∀ (x : Reg) (kk : Byte) (s : State), ∃ t, exec (.random x kk) s = .next t ∧
    t = { s with pc := s.pc + 2#16, v := t.v, inputIx := s.inputIx + 1 } ∧
    (∀ k, (t.readV x).getLsbD k = (s.inputs.randByte.getLsbD k && kk.getLsbD k)) ∧
    ∀ r, r ≠ x → t.readV r = s.readV r

/-- The key skips: below 16 they sample that key and skip under opposite conditions; a value of 16 or more never skips, in
either of them, and no key is sampled (R104, R105). -/
def Obligations.KeySkipsSampleTheirKey : Prop :=
  ∀ (x : Reg) (s : State),
    (∃ t, exec (.skipIfKeyPressed x) s = .next t ∧
      t = if (s.readV x).toNat < 16 then
          { s with inputIx := s.inputIx + 1, pc :=
              if s.inputs.keyState.getLsbD (s.readV x).toNat = true then s.pc + 4#16 else s.pc + 2#16 }
        else { s with pc := s.pc + 2#16 }) ∧
    (∃ t, exec (.skipIfKeyNotPressed x) s = .next t ∧
      t = if (s.readV x).toNat < 16 then
          { s with inputIx := s.inputIx + 1, pc :=
              if s.inputs.keyState.getLsbD (s.readV x).toNat = true then s.pc + 2#16 else s.pc + 4#16 }
        else { s with pc := s.pc + 2#16 })

/-! ### The Fx family -/

/-- The timer moves: Vx from DT, DT from Vx, ST from Vx; a write keeps the timer's running state (R106, R108, R109). -/
def Obligations.TimerMovesCopyTheirValue : Prop :=
  ∀ (x : Reg) (s : State),
    (∃ t, exec (.loadDelayTimer x) s = .next t ∧ t = { s with pc := s.pc + 2#16, v := t.v } ∧
      ∀ r, t.readV r = if r = x then s.dt.value else s.readV r) ∧
    (∃ t, exec (.setDelayTimer x) s = .next t ∧ t = { s with pc := s.pc + 2#16, dt := t.dt } ∧
      t.dt.value = s.readV x ∧ t.dt.run = s.dt.run) ∧
    (∃ t, exec (.setSoundTimer x) s = .next t ∧ t = { s with pc := s.pc + 2#16, st := t.st } ∧
      t.st.value = s.readV x ∧ t.st.run = s.st.run)

/-- wait-for-key blocks with its register recorded and nothing else changed (R107; the two transitions are the spec's own
decision D20). -/
def Obligations.WaitForKeyBlocks : Prop :=
  ∀ (x : Reg) (s : State), ∃ t, exec (.waitForKey x) s = .next t ∧ t = { s with waiting := some x }

/-- A key press completes a pending wait and is ignored without one (R107, R150; the spec's own decisions D20 and D41). That a
listed turn is used up is the model's choice (notes/assumptions/8); that the wait is completed in a state with a latched
failure too, which no run reaches, is the model's reading (notes/assumptions/16). -/
def Obligations.KeyPressCompletesAPendingWait : Prop :=
  ∀ (s : State) (k : Reg) (rest : List Turn), s.turns = .host (.keyPress k) :: rest →
    (s.waiting = none → step s = .next { s with turns := rest }) ∧
    ∀ x, s.waiting = some x → ∃ t, step s = .next t ∧
      t = { s with turns := rest, waiting := none, pc := s.pc + 2#16, v := t.v } ∧
      (t.readV x).toNat = k.toNat ∧ ∀ r, r ≠ x → t.readV r = s.readV r

/-- increment-address-register adds in 16 bits and writes no register (R110). -/
def Obligations.IncrementAddressRegisterWrapsAt16Bits : Prop :=
  ∀ (x : Reg) (s : State), ∃ t, exec (.incrementAddressRegister x) s = .next t ∧
    t = { s with pc := s.pc + 2#16, i := t.i } ∧ t.i.toNat = (s.i.toNat + (s.readV x).toNat) % 65536

/-- font-address points I at the digit's glyph, and leaves I alone for a value of 16 or more (R111). -/
def Obligations.FontAddressPointsAtTheGlyph : Prop :=
  ∀ (x : Reg) (s : State), ∃ t, exec (.fontAddress x) s = .next t ∧ t = { s with pc := s.pc + 2#16, i := t.i } ∧
    ((s.readV x).toNat < 16 → t.i.toNat = s.params.fontBase.val + 5 * (s.readV x).toNat) ∧
    (16 ≤ (s.readV x).toNat → t.i = s.i)

/-- binary-coded-decimal, with its three targets in the program region, stores the decimal digits, hundreds at I (R112). -/
def Obligations.DecimalDigitsAreStored : Prop :=
  ∀ (x : Reg) (s : State), 0x200 ≤ s.i.toNat → s.i.toNat + 2 ≤ 0xFFF →
    ∃ t, exec (.binaryCodedDecimal x) s = .next t ∧ t = { s with pc := s.pc + 2#16, mem := t.mem } ∧
      (s.readV x).toNat = 100 * (t.memRead s.i.toNat).toNat + 10 * (t.memRead (s.i.toNat + 1)).toNat
        + (t.memRead (s.i.toNat + 2)).toNat ∧
      (t.memRead (s.i.toNat + 1)).toNat < 10 ∧ (t.memRead (s.i.toNat + 2)).toNat < 10 ∧
      ∀ a, a < s.i.toNat ∨ s.i.toNat + 2 < a → t.memRead a = s.memRead a

/-- binary-coded-decimal fails at the first target, in the order I + 2, I + 1, I, that cannot be written, and keeps what it
stored before (the failure is the spec's own decision D9, the order D11). -/
def Obligations.DecimalDigitsFailAtTheFirstBadTarget : Prop :=
  ∀ (x : Reg) (s : State), s.i.toNat < 0x200 ∨ 0xFFF < s.i.toNat + 2 →
    ∃ t f, exec (.binaryCodedDecimal x) s = .next t ∧ t = { s with fault := some f, mem := t.mem } ∧
      f.pc = s.pc ∧ f.word = encode (.binaryCodedDecimal x) ∧
      (if 0xFFF < s.i.toNat + 2 then
        f.kind = .memoryBoundsExceeded ∧ f.addr.toNat = s.i.toNat + 2 ∧ s.SameBytes t
      else f.kind = .writeProtected ∧
        if s.i.toNat + 2 < 0x200 then f.addr.toNat = s.i.toNat + 2 ∧ s.SameBytes t
        else if s.i.toNat + 1 < 0x200 then f.addr.toNat = s.i.toNat + 1 ∧
          (t.memRead 0x200).toNat = (s.readV x).toNat % 10 ∧ ∀ a, a ≠ 0x200 → t.memRead a = s.memRead a
        else f.addr.toNat = s.i.toNat ∧
          (t.memRead 0x201).toNat = (s.readV x).toNat % 10 ∧ (t.memRead 0x200).toNat = (s.readV x).toNat / 10 % 10 ∧
          ∀ a, a ≠ 0x200 → a ≠ 0x201 → t.memRead a = s.memRead a)

/-- save-registers, with its targets in the program region, stores V0 to Vx from I up, and leaves I alone (R113). -/
def Obligations.SaveStoresTheRegistersUpward : Prop :=
  ∀ (x : Reg) (s : State), 0x200 ≤ s.i.toNat → s.i.toNat + x.toNat ≤ 0xFFF →
    ∃ t, exec (.saveRegisters x) s = .next t ∧ t = { s with pc := s.pc + 2#16, mem := t.mem } ∧
      (∀ r : Reg, r.toNat ≤ x.toNat → t.memRead (s.i.toNat + r.toNat) = s.readV r) ∧
      ∀ a, a < s.i.toNat ∨ s.i.toNat + x.toNat < a → t.memRead a = s.memRead a

/-- save-registers past the top stores the registers that fit and fails at the first address that does not exist; from
below the program region it stores nothing (the failure is the spec's own decision D7, the protection's D9). -/
def Obligations.SaveFailsAfterThePrefixThatFits : Prop :=
  ∀ (x : Reg) (s : State), s.i.toNat < 0x200 ∨ 0xFFF < s.i.toNat + x.toNat →
    ∃ t f, exec (.saveRegisters x) s = .next t ∧ t = { s with fault := some f, mem := t.mem } ∧
      f.pc = s.pc ∧ f.word = encode (.saveRegisters x) ∧
      (if s.i.toNat < 0x200 then f.kind = .writeProtected ∧ f.addr.toNat = s.i.toNat ∧ s.SameBytes t
      else f.kind = .memoryBoundsExceeded ∧ f.addr.toNat = max s.i.toNat 0x1000 ∧
        (∀ r : Reg, s.i.toNat + r.toNat ≤ 0xFFF → t.memRead (s.i.toNat + r.toNat) = s.readV r) ∧
        ∀ a, a < s.i.toNat → t.memRead a = s.memRead a)

/-- restore-registers, with its sources in the array, loads V0 to Vx from I up, and leaves I alone (R114). -/
def Obligations.RestoreLoadsTheRegistersUpward : Prop :=
  ∀ (x : Reg) (s : State), s.i.toNat + x.toNat ≤ 0xFFF →
    ∃ t, exec (.restoreRegisters x) s = .next t ∧ t = { s with pc := s.pc + 2#16, v := t.v } ∧
      ∀ r : Reg, t.readV r = if r.toNat ≤ x.toNat then s.memRead (s.i.toNat + r.toNat) else s.readV r

/-- restore-registers past the top loads the registers that fit and fails at the first address that does not exist (the
latch is the spec's own decision D7). -/
def Obligations.RestoreFailsAfterThePrefixThatFits : Prop :=
  ∀ (x : Reg) (s : State), 0xFFF < s.i.toNat + x.toNat →
    ∃ t f, exec (.restoreRegisters x) s = .next t ∧ t = { s with fault := some f, v := t.v } ∧
      f.kind = .memoryBoundsExceeded ∧ f.pc = s.pc ∧ f.word = encode (.restoreRegisters x) ∧
      f.addr.toNat = max s.i.toNat 0x1000 ∧
      ∀ r : Reg, t.readV r = if s.i.toNat + r.toNat ≤ 0xFFF then s.memRead (s.i.toNat + r.toNat) else s.readV r

/-! ### The register family -/

/-- move and the logic operations write Vx bit by bit and no flag (R115 to R118; the flags and move are the spec's own
decision D15). -/
def Obligations.MoveAndLogicWriteOneRegister : Prop :=
  ∀ (x y : Reg) (s : State),
    (∃ t, exec (.move x y) s = .next t ∧ t = { s with pc := s.pc + 2#16, v := t.v } ∧
      ∀ r, t.readV r = if r = x then s.readV y else s.readV r) ∧
    (∃ t, exec (.or x y) s = .next t ∧ t = { s with pc := s.pc + 2#16, v := t.v } ∧
      (∀ k, (t.readV x).getLsbD k = ((s.readV x).getLsbD k || (s.readV y).getLsbD k)) ∧
      ∀ r, r ≠ x → t.readV r = s.readV r) ∧
    (∃ t, exec (.and x y) s = .next t ∧ t = { s with pc := s.pc + 2#16, v := t.v } ∧
      (∀ k, (t.readV x).getLsbD k = ((s.readV x).getLsbD k && (s.readV y).getLsbD k)) ∧
      ∀ r, r ≠ x → t.readV r = s.readV r) ∧
    (∃ t, exec (.xor x y) s = .next t ∧ t = { s with pc := s.pc + 2#16, v := t.v } ∧
      (∀ k, (t.readV x).getLsbD k = ((s.readV x).getLsbD k ^^ (s.readV y).getLsbD k)) ∧
      ∀ r, r ≠ x → t.readV r = s.readV r)

/-- add: the sum modulo 256 in Vx, and VF 1 exactly when the exact sum is 256 or more; where x is F the flag is what stays
(R119; the order of the two writes is the spec's own decision D13). -/
def Obligations.AddWritesSumAndCarry : Prop :=
  ∀ (x y : Reg) (s : State), ∃ t, exec (.add x y) s = .next t ∧ t = { s with pc := s.pc + 2#16, v := t.v } ∧
    (x ≠ 0xF#4 → (t.readV x).toNat = ((s.readV x).toNat + (s.readV y).toNat) % 256) ∧
    t.readV 0xF#4 = (if 256 ≤ (s.readV x).toNat + (s.readV y).toNat then 1#8 else 0#8) ∧
    ∀ r, r ≠ x → r ≠ 0xF#4 → t.readV r = s.readV r

/-- sub: the difference modulo 256 in Vx, and VF 1 exactly when no borrow occurred; where x is F the flag is what stays
(R120; the order of the two writes is the spec's own decision D13). -/
def Obligations.SubWritesDifferenceAndNoBorrow : Prop :=
  ∀ (x y : Reg) (s : State), ∃ t, exec (.sub x y) s = .next t ∧ t = { s with pc := s.pc + 2#16, v := t.v } ∧
    (x ≠ 0xF#4 → ((t.readV x).toNat + (s.readV y).toNat) % 256 = (s.readV x).toNat) ∧
    t.readV 0xF#4 = (if (s.readV y).toNat ≤ (s.readV x).toNat then 1#8 else 0#8) ∧
    ∀ r, r ≠ x → r ≠ 0xF#4 → t.readV r = s.readV r

/-- subn: Vy - Vx modulo 256 in the register SUBN_DEST selects, and VF 1 exactly when no borrow occurred; where that register
is VF the flag is what stays (R122; the destination is the spec's own decision D14, the order of the writes D13). -/
def Obligations.SubnWritesTheSelectedRegister : Prop :=
  ∀ (x y : Reg) (s : State), ∃ t, exec (.subn x y) s = .next t ∧ t = { s with pc := s.pc + 2#16, v := t.v } ∧
    (s.params.subnDest = .y → (y ≠ 0xF#4 → ((t.readV y).toNat + (s.readV x).toNat) % 256 = (s.readV y).toNat) ∧
      ∀ r, r ≠ y → r ≠ 0xF#4 → t.readV r = s.readV r) ∧
    (s.params.subnDest = .x → (x ≠ 0xF#4 → ((t.readV x).toNat + (s.readV x).toNat) % 256 = (s.readV y).toNat) ∧
      ∀ r, r ≠ x → r ≠ 0xF#4 → t.readV r = s.readV r) ∧
    t.readV 0xF#4 = (if (s.readV x).toNat ≤ (s.readV y).toNat then 1#8 else 0#8)

/-- The shifts: Vx halved or doubled, VF the bit shifted out, Vy unused (the spec's own decision D16); where x is F the
shifted flag is what stays (D13). -/
def Obligations.ShiftsMoveTheOuterBitToVF : Prop :=
  ∀ (x y : Reg) (s : State),
    (∃ t, exec (.shr x y) s = .next t ∧ t = { s with pc := s.pc + 2#16, v := t.v } ∧
      (x ≠ 0xF#4 → (t.readV x).toNat = (s.readV x).toNat / 2 ∧ (t.readV 0xF#4).toNat = (s.readV x).toNat % 2) ∧
      (x = 0xF#4 → t.readV x = 0#8) ∧ ∀ r, r ≠ x → r ≠ 0xF#4 → t.readV r = s.readV r) ∧
    (∃ t, exec (.shl x y) s = .next t ∧ t = { s with pc := s.pc + 2#16, v := t.v } ∧
      (x ≠ 0xF#4 → (t.readV x).toNat = 2 * (s.readV x).toNat % 256 ∧
        (t.readV 0xF#4).toNat = (s.readV x).toNat / 128) ∧
      (x = 0xF#4 → (t.readV x).toNat = 2 * ((s.readV x).toNat / 128)) ∧
      ∀ r, r ≠ x → r ≠ 0xF#4 → t.readV r = s.readV r)

/-- The register skips pass one word exactly when their condition holds, and write the pc alone (R124, R125). -/
def Obligations.RegisterSkipsPassOneWord : Prop :=
  ∀ (x y : Reg) (s : State),
    (∃ t, exec (.skipIfEqual x y) s = .next t ∧
      t = { s with pc := if s.readV x = s.readV y then s.pc + 4#16 else s.pc + 2#16 }) ∧
    (∃ t, exec (.skipIfNotEqual x y) s = .next t ∧
      t = { s with pc := if s.readV x = s.readV y then s.pc + 2#16 else s.pc + 4#16 })

/-! ### The display -/

/-- clear-screen, answered with any value, issues one CLEAR request and goes to the next instruction; no register is written
(R127). That it completes when an answer is there rests on R153 and R170; that the answer is one on draw_resp is the model's
reading (notes/assumptions/22). -/
def Obligations.ClearScreenIssuesOneRequest : Prop :=
  decode 0x00E0#16 = .ok .clearScreen ∧ ∀ (s : State) (c : BitVec 1), s.inputs.drawResp = some c →
    ∃ t, exec .clearScreen s = .next t ∧
      t = { s with pc := s.pc + 2#16, inputIx := s.inputIx + 1, draws := s.draws ++ [.clear] }

/-- draw-sprite, answered with c, issues one request with the origin it read, the rows in the array from I up, and sets VF
to c; a copy that runs past the top is cut there and logged (R128). -/
def Obligations.DrawSpriteIssuesItsRows : Prop :=
  ∀ (x y n : Reg) (s : State) (c : BitVec 1), s.inputs.drawResp = some c →
    ∃ (t : State) (rows : List Byte), exec (.drawSprite x y n) s = .next t ∧
      t = { s with pc := s.pc + 2#16, v := t.v, inputIx := s.inputIx + 1, log := t.log,
                   draws := s.draws ++ [.sprite (s.readV x) (s.readV y) rows] } ∧
      rows.length = min n.toNat (0x1000 - s.i.toNat) ∧
      (∀ (k : Nat) (h : k < rows.length), rows[k] = s.memRead (s.i.toNat + k)) ∧
      (t.readV 0xF#4).toNat = c.toNat ∧ (∀ r, r ≠ 0xF#4 → t.readV r = s.readV r) ∧
      t.log = s.log ++ (if rows.length < n.toNat then [.spriteTruncated s.pc n.toNat rows.length] else [])

/-- Neither draw-sprite nor clear-screen completes without an answer: nothing changes but the count of the reads of the inputs
(R153, R170; that nothing of the request shows before its answer is the model's reading, notes/assumptions/11; that the answer
to a CLEAR is one on draw_resp is notes/assumptions/22). -/
def Obligations.DrawWithoutAnAnswerStays : Prop :=
  ∀ s : State, s.inputs.drawResp = none →
    exec .clearScreen s = .next { s with inputIx := s.inputIx + 1 } ∧
    ∀ x y n : Reg, exec (.drawSprite x y n) s = .next { s with inputIx := s.inputIx + 1 }

/-! ### What instructions leave unchanged -/

/-- Every register outside R22's write column is unchanged, for every instruction. -/
def Obligations.RegistersOutsideTheWriteColumnAreKept : Prop :=
  ∀ (i : Instr) (s t : State), exec i s = .next t → ∀ r, r ∉ i.registersWritten s.params → t.readV r = s.readV r

/-- Every byte outside the store addresses of the instruction reads as before; only binary-coded-decimal and save-registers
have any (R54). -/
def Obligations.BytesOutsideTheStoreAddressesAreKept : Prop :=
  ∀ (i : Instr) (s t : State), exec i s = .next t → ∀ a, a ∉ i.storeAddresses s → t.memRead a = s.memRead a

/-- I, the stack, the timers, the failure latch, the wait and the outputs are unchanged but by the instructions the spec
names for each (R26 to R30, R107, R127, R128, R133, R134); no instruction changes the parameters, the timers' running
states, or the turns to come. -/
def Obligations.SpecialStateIsKeptByOtherInstructions : Prop :=
  ∀ (i : Instr) (s t : State), exec i s = .next t →
    (i.writesI = false → t.i = s.i) ∧ (i.writesStack = false → t.stack = s.stack) ∧
    (i.writesDelayTimer = false → t.dt = s.dt) ∧ (i.writesSoundTimer = false → t.st = s.st) ∧
    (i.canFail = false → t.fault = s.fault) ∧ (i.waits = false → t.waiting = s.waiting) ∧
    (i.draws = false → t.draws = s.draws) ∧ (i.logs = false → t.log = s.log) ∧
    (i.readsInput = false → t.inputIx = s.inputIx) ∧ t.dt.run = s.dt.run ∧ t.st.run = s.st.run ∧
    t.params = s.params ∧ t.ports = s.ports ∧ t.turns = s.turns

/-- The pc moves in no other way than R24's: on by one word, over one word more by a taken skip, to the target of the three
handlers that jump, past the popped address; it stays where a failure is latched, a key is waited for or a draw is not
answered. The reduction modulo 2^16 is the spec's own decision D3, the latch D7, the wait D20; the draw that is not answered
is the model's reading (notes/assumptions/11). -/
def Obligations.PcMovesOnlyInTheseWays : Prop :=
  ∀ (i : Instr) (s t : State), exec i s = .next t →
    t.pc = s.pc + 2#16 ∨ (i.skips = true ∧ t.pc = s.pc + 4#16) ∨
    (∃ nnn, i = .jump nnn ∧ t.pc.toNat = nnn.toNat) ∨
    (∃ nnn, i = .call nnn ∧ t.pc.toNat = nnn.toNat ∧ t.stack = s.pc :: s.stack) ∨
    (∃ nnn, i = .jumpOffset nnn ∧ t.pc.toNat = nnn.toNat + (s.readV 0#4).toNat) ∨
    (i = .ret ∧ ∃ a, s.stack = a :: t.stack ∧ t.pc = a + 2#16) ∨
    (t.pc = s.pc ∧ ((i.canFail = true ∧ t.fault.isSome = true) ∨ (i.waits = true ∧ t.waiting.isSome = true) ∨
      (s.inputs.drawResp = none ∧ (i = .clearScreen ∨ ∃ x y n, i = .drawSprite x y n))))

/-- An instruction that reads no data input does the same whatever the host holds on the inputs. -/
def Obligations.InputsReachOnlyTheInstructionsThatReadThem : Prop :=
  ∀ (i : Instr) (s t : State) (p : Option Ports), i.readsInput = false → exec i s = .next t →
    exec i { s with ports := p } = .next { t with ports := p }

/-- An instruction that latches a failure leaves the pc at itself and records its own pc and word (R135; the latch is the
spec's own decision D7). -/
def Obligations.FailureRecordsItsInstruction : Prop :=
  ∀ (i : Instr) (s t : State) (f : FailureRecord), s.fault = none → exec i s = .next t → t.fault = some f →
    i.canFail = true ∧ t.pc = s.pc ∧ f.pc = s.pc ∧ f.word = encode i ∧ f.Possible

/-! ### The other agents -/

/-- n ticks of a running timer count down by n and stop at 0; a stopped timer is unchanged (R143; that 0 does not stop the
timer is the spec's own decision D21). -/
def Obligations.TicksCountDownToZero : Prop :=
  ∀ (n : Nat) (t : Timer), (Timer.tick^[n] t).value.toNat = (if t.run = true then t.value.toNat - n else t.value.toNat) ∧
    (Timer.tick^[n] t).run = t.run

/-- The turns about a timer write that timer alone: a tick counts it, start and stop set its running state and keep its value
(R142, R149). That a listed turn is used up is the model's choice (notes/assumptions/8). -/
def Obligations.TimerTurnsWriteTheirOwnTimer : Prop :=
  ∀ (s : State) (rest : List Turn),
    (s.turns = .delayTick :: rest → step s = .next { s with turns := rest, dt := s.dt.tick }) ∧
    (s.turns = .soundTick :: rest → step s = .next { s with turns := rest, st := s.st.tick }) ∧
    (s.turns = .host .delayStart :: rest → step s = .next { s with turns := rest, dt := ⟨s.dt.value, true⟩ }) ∧
    (s.turns = .host .delayStop :: rest → step s = .next { s with turns := rest, dt := ⟨s.dt.value, false⟩ }) ∧
    (s.turns = .host .soundStart :: rest → step s = .next { s with turns := rest, st := ⟨s.st.value, true⟩ }) ∧
    (s.turns = .host .soundStop :: rest → step s = .next { s with turns := rest, st := ⟨s.st.value, false⟩ })

/-- DT never rises but by set-delay-timer or a reset (R165). -/
def Obligations.DelayTimerRisesOnlyWhenSet : Prop :=
  ∀ s t : State, step s = .next t → (∀ l rest, s.turns ≠ .host (.reset l) :: rest) →
    (∀ x, decode s.fetchWord ≠ .ok (.setDelayTimer x)) → t.dt.value.toNat ≤ s.dt.value.toNat

/-- A reset leaves a launch state, the font included, with the launch inputs in the registers, the timers and the memory
outside the font, both timers running, from every state (R156, R157, R161; the sequence is the spec's own decision D23). The
parameters stay. How a launch input lists bytes is notes/assumptions/17; the list of turns is notes/assumptions/8. -/
def Obligations.ResetTurnLaunches : Prop :=
  ∀ (s : State) (l : Launch) (rest : List Turn), s.turns = .host (.reset l) :: rest →
    ∃ t, step s = .next t ∧ t.Launched ∧ t.v = l.v ∧ t.i = l.i ∧ t.dt = ⟨l.dt, true⟩ ∧ t.st = ⟨l.st, true⟩ ∧
      (∀ a, a < 0x200 → (a < s.params.fontBase.val ∨ s.params.fontBase.val + 80 ≤ a) →
        t.memRead a = listedByte l.reservedFill a) ∧
      (∀ a, 0x200 ≤ a → a ≤ 0xFFF → t.memRead a = listedByte l.romImage a) ∧
      t.params = s.params ∧ Memory.wf t.params t.mem

/-- A jump to itself changes nothing: the run has ended in a spin (R162; the definition is the spec's own decision D37). -/
def Obligations.SpinningEngineChangesNothing : Prop :=
  ∀ s : State, s.Spinning → s.turns = [] → step s = .next s

/-! ### Invariants -/

/-- The invariant holds at reset. -/
def Obligations.ResetMeetsTheInvariant : Prop := State.reset.Inv

/-- Every step of every agent keeps the invariant: the memory's canonical form, the font, the stack's bound, the latches and
the recorded failure. -/
def Obligations.EveryStepKeepsTheInvariant : Prop :=
  ∀ s t : State, s.Inv → step s = .next t → t.Inv

/-- No step but a reset changes a byte below 0x200, and none changes the launch parameters (R46, R53). -/
def Obligations.LowMemoryChangesOnlyAtReset : Prop :=
  ∀ s t : State, step s = .next t → t.params = s.params ∧
    ((∀ l rest, s.turns ≠ .host (.reset l) :: rest) → ∀ a, a < 0x200 → t.memRead a = s.memRead a)

/-- Every byte that save-registers stores is fetched by every later fetch that reads its address: as the high byte of the word
at that address, and as the low byte of the word one address below; so a word inside is Vr then V(r + 1) (R65; the coherence
is the spec's own decision D34, the byte order D1). -/
def Obligations.StoredBytesAreFetched : Prop :=
  ∀ (x : Reg) (s : State), 0x200 ≤ s.i.toNat → s.i.toNat + x.toNat ≤ 0xFFF →
    ∃ t, exec (.saveRegisters x) s = .next t ∧
      ∀ (r : Reg) (u : State), r.toNat ≤ x.toNat → u.mem = t.mem → u.params = t.params →
        (u.pc.toNat = s.i.toNat + r.toNat → u.fetchWord.toNat / 256 = (s.readV r).toNat) ∧
        (u.pc.toNat + 1 = s.i.toNat + r.toNat → u.fetchWord.toNat % 256 = (s.readV r).toNat)

/-- What reset leaves that the spec states: pc, stack, latches, running timers, and the font's bytes (R35). -/
def Obligations.ResetLeavesTheStatedValues : Prop :=
  State.reset.pc = 0x200#16 ∧ State.reset.depth = 0 ∧ State.reset.fault = none ∧ State.reset.waiting = none ∧
  State.reset.dt.run = true ∧ State.reset.st.run = true ∧ State.reset.FontIntact

/-- The status output of a failed engine carries the failure's fields, the kind as its code of R132 (the numbers are the spec's
own decision D8), and of one that has not failed, zeros; the wait likewise; and the timers' running states (R32). -/
def Obligations.StatusShowsTheFailure : Prop :=
  ∀ s : State, (s.fault = none → s.status.faultValid = 0#1 ∧ s.status.faultKind = 0#3 ∧ s.status.faultPc = 0#16 ∧
      s.status.faultWord = 0#16 ∧ s.status.faultAddr = 0#17) ∧
    (∀ f, s.fault = some f → s.status.faultValid = 1#1 ∧ s.status.faultPc = f.pc ∧
      s.status.faultWord = f.word ∧ s.status.faultAddr = f.addr ∧
      (f.kind = .decodeFailure → s.status.faultKind = 1#3) ∧ (f.kind = .stackOverflow → s.status.faultKind = 2#3) ∧
      (f.kind = .stackUnderflow → s.status.faultKind = 3#3) ∧
      (f.kind = .memoryBoundsExceeded → s.status.faultKind = 4#3) ∧
      (f.kind = .writeProtected → s.status.faultKind = 5#3)) ∧
    (s.waiting = none → s.status.waitingValid = 0#1 ∧ s.status.waitingX = 0#4) ∧
    (∀ x, s.waiting = some x → s.status.waitingValid = 1#1 ∧ s.status.waitingX = x) ∧
    s.status.dtRun = (if s.dt.run = true then 1#1 else 0#1) ∧ s.status.stRun = (if s.st.run = true then 1#1 else 0#1)
end

