-- ==== Sys2Proof/Laws/Decode.lean ====
section
/-! SUPPORT. The fields of a word and the words put together from fields as numbers, the fields of an encoded word, and a
word rebuilt from its fields (spec/30_encoding.md R68, R71). -/

namespace Sys2Proof

/-! ### As numbers -/

theorem fieldOp_toNat (w : Word) : (fieldOp w).toNat = w.toNat / 4096 % 16 := by
  simp [fieldOp, BitVec.extractLsb'_toNat, Nat.shiftRight_eq_div_pow]
theorem fieldX_toNat (w : Word) : (fieldX w).toNat = w.toNat / 256 % 16 := by
  simp [fieldX, BitVec.extractLsb'_toNat, Nat.shiftRight_eq_div_pow]
theorem fieldY_toNat (w : Word) : (fieldY w).toNat = w.toNat / 16 % 16 := by
  simp [fieldY, BitVec.extractLsb'_toNat, Nat.shiftRight_eq_div_pow]
theorem fieldN_toNat (w : Word) : (fieldN w).toNat = w.toNat % 16 := by
  simp [fieldN, BitVec.extractLsb'_toNat]
theorem fieldNNN_toNat (w : Word) : (fieldNNN w).toNat = w.toNat % 4096 := by
  simp [fieldNNN, BitVec.extractLsb'_toNat]
theorem fieldKK_toNat (w : Word) : (fieldKK w).toNat = w.toNat % 256 := by
  simp [fieldKK, BitVec.extractLsb'_toNat]

theorem append_toNat {v w : Nat} (a : BitVec v) (b : BitVec w) : (a ++ b).toNat = a.toNat * 2 ^ w + b.toNat := by
  rw [BitVec.toNat_append, ← Nat.shiftLeft_add_eq_or_of_lt b.isLt, Nat.shiftLeft_eq]

theorem wordOfBytes_toNat (hi lo : Byte) : (wordOfBytes hi lo).toNat = hi.toNat * 256 + lo.toNat := append_toNat hi lo

theorem encodeA_toNat (op : BitVec 4) (nnn : Addr) : (encodeA op nnn).toNat = op.toNat * 4096 + nnn.toNat :=
  append_toNat op nnn
theorem encodeI_toNat (op : BitVec 4) (x : Reg) (kk : Byte) :
    (encodeI op x kk).toNat = op.toNat * 4096 + (x.toNat * 256 + kk.toNat) :=
  (append_toNat op (x ++ kk)).trans (by rw [append_toNat x kk]; rfl)
theorem encodeR_toNat (op : BitVec 4) (x y d : Reg) :
    (encodeR op x y d).toNat = op.toNat * 4096 + (x.toNat * 256 + (y.toNat * 16 + d.toNat)) :=
  (append_toNat op (x ++ (y ++ d))).trans (by rw [append_toNat x (y ++ d), append_toNat y d]; rfl)

/-! ### The fields of an encoded word -/

@[simp] theorem fieldOp_encodeA (op : BitVec 4) (nnn : Addr) : fieldOp (encodeA op nnn) = op := by
  apply BitVec.eq_of_toNat_eq; rw [fieldOp_toNat, encodeA_toNat]; omega
@[simp] theorem fieldNNN_encodeA (op : BitVec 4) (nnn : Addr) : fieldNNN (encodeA op nnn) = nnn := by
  apply BitVec.eq_of_toNat_eq; rw [fieldNNN_toNat, encodeA_toNat]; omega
@[simp] theorem fieldOp_encodeI (op : BitVec 4) (x : Reg) (kk : Byte) : fieldOp (encodeI op x kk) = op := by
  apply BitVec.eq_of_toNat_eq; rw [fieldOp_toNat, encodeI_toNat]; omega
@[simp] theorem fieldX_encodeI (op : BitVec 4) (x : Reg) (kk : Byte) : fieldX (encodeI op x kk) = x := by
  apply BitVec.eq_of_toNat_eq; rw [fieldX_toNat, encodeI_toNat]; omega
@[simp] theorem fieldKK_encodeI (op : BitVec 4) (x : Reg) (kk : Byte) : fieldKK (encodeI op x kk) = kk := by
  apply BitVec.eq_of_toNat_eq; rw [fieldKK_toNat, encodeI_toNat]; omega
@[simp] theorem fieldOp_encodeR (op : BitVec 4) (x y d : Reg) : fieldOp (encodeR op x y d) = op := by
  apply BitVec.eq_of_toNat_eq; rw [fieldOp_toNat, encodeR_toNat]; omega
@[simp] theorem fieldX_encodeR (op : BitVec 4) (x y d : Reg) : fieldX (encodeR op x y d) = x := by
  apply BitVec.eq_of_toNat_eq; rw [fieldX_toNat, encodeR_toNat]; omega
@[simp] theorem fieldY_encodeR (op : BitVec 4) (x y d : Reg) : fieldY (encodeR op x y d) = y := by
  apply BitVec.eq_of_toNat_eq; rw [fieldY_toNat, encodeR_toNat]; omega
@[simp] theorem fieldN_encodeR (op : BitVec 4) (x y d : Reg) : fieldN (encodeR op x y d) = d := by
  apply BitVec.eq_of_toNat_eq; rw [fieldN_toNat, encodeR_toNat]; omega

/-! ### A word rebuilt from its fields -/

theorem encodeA_fields (w : Word) : encodeA (fieldOp w) (fieldNNN w) = w := by
  apply BitVec.eq_of_toNat_eq
  have := w.isLt
  rw [encodeA_toNat, fieldOp_toNat, fieldNNN_toNat]; omega
theorem encodeI_fields (w : Word) : encodeI (fieldOp w) (fieldX w) (fieldKK w) = w := by
  apply BitVec.eq_of_toNat_eq
  have := w.isLt
  rw [encodeI_toNat, fieldOp_toNat, fieldX_toNat, fieldKK_toNat]; omega
theorem encodeR_fields (w : Word) : encodeR (fieldOp w) (fieldX w) (fieldY w) (fieldN w) = w := by
  apply BitVec.eq_of_toNat_eq
  have := w.isLt
  rw [encodeR_toNat, fieldOp_toNat, fieldX_toNat, fieldY_toNat, fieldN_toNat]; omega

/-- The bytes of a word, put together again. -/
theorem wordOfBytes_bytes (w : Word) : wordOfBytes (w.extractLsb' 8 8) (w.extractLsb' 0 8) = w := by
  apply BitVec.eq_of_toNat_eq
  have := w.isLt
  rw [wordOfBytes_toNat, BitVec.extractLsb'_toNat, BitVec.extractLsb'_toNat, Nat.shiftRight_eq_div_pow]
  simp only [Nat.shiftRight_zero]
  omega

end Sys2Proof
end

