-- ==== Sys2Proof/Laws/Exec.lean ====
section
/-! SUPPORT. exec at each constructor is that instruction's meaning. -/

namespace Sys2Proof.Machine

variable (s : State)

@[simp] theorem exec_sys (nnn : Addr) : exec (.sys nnn) s = execSys nnn s := rfl
@[simp] theorem exec_jump (nnn : Addr) : exec (.jump nnn) s = execJump nnn s := rfl
@[simp] theorem exec_call (nnn : Addr) : exec (.call nnn) s = execCall nnn s := rfl
@[simp] theorem exec_ret : exec .ret s = execRet s := rfl
@[simp] theorem exec_loadAddress (nnn : Addr) : exec (.loadAddress nnn) s = execLoadAddress nnn s := rfl
@[simp] theorem exec_jumpOffset (nnn : Addr) : exec (.jumpOffset nnn) s = execJumpOffset nnn s := rfl
@[simp] theorem exec_skipEqualImmediate (x : Reg) (kk : Byte) : exec (.skipEqualImmediate x kk) s = execSkipEqualImmediate x kk s := rfl
@[simp] theorem exec_skipNotEqualImmediate (x : Reg) (kk : Byte) : exec (.skipNotEqualImmediate x kk) s = execSkipNotEqualImmediate x kk s := rfl
@[simp] theorem exec_loadImmediate (x : Reg) (kk : Byte) : exec (.loadImmediate x kk) s = execLoadImmediate x kk s := rfl
@[simp] theorem exec_addImmediate (x : Reg) (kk : Byte) : exec (.addImmediate x kk) s = execAddImmediate x kk s := rfl
@[simp] theorem exec_random (x : Reg) (kk : Byte) : exec (.random x kk) s = execRandom x kk s := rfl
@[simp] theorem exec_skipIfKeyPressed (x : Reg) : exec (.skipIfKeyPressed x) s = execSkipIfKeyPressed x s := rfl
@[simp] theorem exec_skipIfKeyNotPressed (x : Reg) : exec (.skipIfKeyNotPressed x) s = execSkipIfKeyNotPressed x s := rfl
@[simp] theorem exec_loadDelayTimer (x : Reg) : exec (.loadDelayTimer x) s = execLoadDelayTimer x s := rfl
@[simp] theorem exec_waitForKey (x : Reg) : exec (.waitForKey x) s = execWaitForKey x s := rfl
@[simp] theorem exec_setDelayTimer (x : Reg) : exec (.setDelayTimer x) s = execSetDelayTimer x s := rfl
@[simp] theorem exec_setSoundTimer (x : Reg) : exec (.setSoundTimer x) s = execSetSoundTimer x s := rfl
@[simp] theorem exec_incrementAddressRegister (x : Reg) : exec (.incrementAddressRegister x) s = execIncrementAddressRegister x s := rfl
@[simp] theorem exec_fontAddress (x : Reg) : exec (.fontAddress x) s = execFontAddress x s := rfl
@[simp] theorem exec_binaryCodedDecimal (x : Reg) : exec (.binaryCodedDecimal x) s = execBinaryCodedDecimal x s := rfl
@[simp] theorem exec_saveRegisters (x : Reg) : exec (.saveRegisters x) s = execSaveRegisters x s := rfl
@[simp] theorem exec_restoreRegisters (x : Reg) : exec (.restoreRegisters x) s = execRestoreRegisters x s := rfl
@[simp] theorem exec_move (x y : Reg) : exec (.move x y) s = execMove x y s := rfl
@[simp] theorem exec_or (x y : Reg) : exec (.or x y) s = execOr x y s := rfl
@[simp] theorem exec_and (x y : Reg) : exec (.and x y) s = execAnd x y s := rfl
@[simp] theorem exec_xor (x y : Reg) : exec (.xor x y) s = execXor x y s := rfl
@[simp] theorem exec_add (x y : Reg) : exec (.add x y) s = execAdd x y s := rfl
@[simp] theorem exec_sub (x y : Reg) : exec (.sub x y) s = execSub x y s := rfl
@[simp] theorem exec_shr (x y : Reg) : exec (.shr x y) s = execShr x y s := rfl
@[simp] theorem exec_subn (x y : Reg) : exec (.subn x y) s = execSubn x y s := rfl
@[simp] theorem exec_shl (x y : Reg) : exec (.shl x y) s = execShl x y s := rfl
@[simp] theorem exec_skipIfEqual (x y : Reg) : exec (.skipIfEqual x y) s = execSkipIfEqual x y s := rfl
@[simp] theorem exec_skipIfNotEqual (x y : Reg) : exec (.skipIfNotEqual x y) s = execSkipIfNotEqual x y s := rfl
@[simp] theorem exec_clearScreen : exec .clearScreen s = execClearScreen s := rfl
@[simp] theorem exec_drawSprite (x y n : Reg) : exec (.drawSprite x y n) s = execDrawSprite x y n s := rfl

end Sys2Proof.Machine
end

