-- ==== Sys2Proof/Laws/Memory.lean ====
section
/-! SUPPORT. The laws of memory: a read after a write, and that every write keeps the canonical form. -/

namespace Sys2Proof.Machine

theorem Memory.get_insert (u : Byte) (c : Host.Cell) (a : Nat) (m : Memory) (h : ∀ d ∈ m, d.1 ≠ c.1) :
    Memory.get u a (Memory.insert c m) = if c.1 = a then c.2 else Memory.get u a m := by
  induction m with
  | nil => simp [Memory.insert, Memory.get]
  | cons d m ih =>
    have hd : d.1 ≠ c.1 := h d (by simp)
    have ih' := ih (fun e he => h e (by simp [he]))
    by_cases hlt : c.1 < d.1
    · simp [Memory.insert, hlt, Memory.get]
    · simp only [Memory.insert, hlt, if_false, Memory.get, ih']
      by_cases hda : d.1 = a
      · have : ¬ c.1 = a := fun e => hd (by omega)
        simp [hda, this]
      · simp [hda]

theorem Memory.get_filter (u : Byte) (a c : Nat) (m : Memory) :
    Memory.get u a (m.filter (fun d => d.1 != c)) = if c = a then u else Memory.get u a m := by
  induction m with
  | nil => simp [Memory.get]
  | cons d m ih =>
    by_cases hdc : d.1 = c
    · by_cases hca : c = a
      · simp [hdc, hca] at ih ⊢
        exact ih
      · have : ¬ d.1 = a := by omega
        simp [hdc, hca, Memory.get] at ih ⊢
        exact ih
    · by_cases hda : d.1 = a
      · have : ¬ c = a := by omega
        rw [List.filter_cons_of_pos (by simpa using hdc)]
        simp [hda, this, Memory.get]
      · simp [hdc, hda, Memory.get] at ih ⊢
        exact ih

/-- A read after a write of one address, `u` being what the address read holds unlisted. -/
theorem Memory.get_put (u u' : Byte) (a c : Nat) (b : Byte) (m : Memory) (hu : c = a → u = u') :
    Memory.get u' a (Memory.put u c b m) = if c = a then b else Memory.get u' a m := by
  unfold Memory.put
  by_cases hb : b = u
  · by_cases hca : c = a
    · simp [hb, Memory.get_filter, hca, hu hca]
    · simp [hb, Memory.get_filter, hca]
  · simp only [hb, if_false]
    rw [Memory.get_insert _ _ _ _ (by intro d hd; simpa using (List.mem_filter.mp hd).2), Memory.get_filter]
    by_cases hca : c = a <;> simp [hca]

theorem Memory.mem_insert (c d : Host.Cell) (m : Memory) : d ∈ Memory.insert c m ↔ d = c ∨ d ∈ m := by
  induction m with
  | nil => simp [Memory.insert]
  | cons e m ih =>
    by_cases h : c.1 < e.1
    · simp [Memory.insert, h]
    · simp only [Memory.insert, h, if_false, List.mem_cons, ih]
      tauto

theorem Memory.pairwise_insert (c : Host.Cell) (m : Memory) (hm : List.Pairwise (fun c d => c.1 < d.1) m)
    (h : ∀ d ∈ m, d.1 ≠ c.1) : List.Pairwise (fun c d => c.1 < d.1) (Memory.insert c m) := by
  induction m with
  | nil => simp [Memory.insert]
  | cons d m ih =>
    rw [List.pairwise_cons] at hm
    have hd : d.1 ≠ c.1 := h d (by simp)
    by_cases hlt : c.1 < d.1
    · simp only [Memory.insert, hlt, if_true, List.pairwise_cons]
      refine ⟨?_, hm.1, hm.2⟩
      intro e he
      rcases List.mem_cons.mp he with rfl | he
      · exact hlt
      · exact hlt.trans (hm.1 e he)
    · simp only [Memory.insert, hlt, if_false, List.pairwise_cons]
      refine ⟨?_, ih hm.2 (fun e he => h e (by simp [he]))⟩
      intro e he
      rcases (Memory.mem_insert c e m).mp he with rfl | he
      · omega
      · exact hm.1 e he

/-- A write below 4096 keeps the canonical form. -/
theorem Memory.put_wf (p : Params) (a : Nat) (b : Byte) (m : Memory) (hm : Memory.wf p m) (ha : a ≤ Config.memTop) :
    Memory.wf p (Memory.put (unlistedByte p a) a b m) := by
  have hf : Memory.wf p (m.filter (fun d => d.1 != a)) :=
    ⟨hm.1.filter _, fun c hc => hm.2 c (List.mem_filter.mp hc).1⟩
  unfold Memory.put
  by_cases hb : b = unlistedByte p a
  · simpa [hb] using hf
  · simp only [hb, if_false]
    refine ⟨Memory.pairwise_insert _ _ hf.1 (by intro d hd; simpa using (List.mem_filter.mp hd).2), ?_⟩
    intro c hc
    rcases (Memory.mem_insert _ _ _).mp hc with rfl | hc
    · exact ⟨ha, hb⟩
    · exact hf.2 c hc

/-- A read after a write through the state. -/
theorem State.byteAt_setByte (s : State) (a c : Nat) (b : Byte) :
    (s.setByte a b).byteAt c = if a = c then b else s.byteAt c :=
  Memory.get_put _ _ _ _ _ _ (fun h => by rw [h]; rfl)

/-- The same for `MemRead`: the written byte is seen when its address exists (R52). -/
theorem State.memRead_setByte (s : State) (a c : Nat) (b : Byte) (ha : a ≤ Config.memTop) :
    (s.setByte a b).memRead c = if a = c then b else s.memRead c := by
  unfold State.memRead
  rw [State.byteAt_setByte]
  by_cases h : a = c
  · subst h; simp [ha]
  · simp [h]

/-- A state's write keeps the canonical form of its memory. -/
theorem State.setByte_wf (s : State) (a : Nat) (b : Byte) (hm : Memory.wf s.params s.mem) (ha : a ≤ Config.memTop) :
    Memory.wf (s.setByte a b).params (s.setByte a b).mem :=
  Memory.put_wf s.params a b s.mem hm ha

/-- A read above the top gives 0 (R52). -/
theorem State.memRead_above (s : State) (a : Nat) (h : Config.memTop < a) : s.memRead a = 0#8 := by
  simp [State.memRead, Nat.not_le.mpr h]

/-- A write succeeds exactly in the program region, and then stores (R53). -/
theorem State.memWrite_eq_ok (s t : State) (a : Nat) (b : Byte) :
    s.memWrite a b = .ok t ↔ (Config.progStart ≤ a ∧ a ≤ Config.memTop) ∧ t = s.setByte a b := by
  unfold State.memWrite
  by_cases h1 : a < Config.progStart
  · simp [h1]
  · by_cases h2 : Config.memTop < a
    · simp [h1, h2]
    · simp [h1, h2]
      constructor
      · rintro rfl; exact ⟨⟨by omega, by omega⟩, rfl⟩
      · rintro ⟨-, rfl⟩; rfl

end Sys2Proof.Machine
end

