-- ==== Sys2Proof/Laws/State.lean ====
section
/-! SUPPORT. One lemma per field per update of State, true by unfolding, so that no later proof unfolds a record update. -/

namespace Sys2Proof.Machine

variable (s : State)

@[simp] theorem State.setV_v (x : Reg) (b : Byte) : (s.setV x b).v = s.v.set x.toNat b x.isLt := rfl
@[simp] theorem State.setV_pc (x : Reg) (b : Byte) : (s.setV x b).pc = s.pc := rfl
@[simp] theorem State.setV_i (x : Reg) (b : Byte) : (s.setV x b).i = s.i := rfl
@[simp] theorem State.setV_dt (x : Reg) (b : Byte) : (s.setV x b).dt = s.dt := rfl
@[simp] theorem State.setV_st (x : Reg) (b : Byte) : (s.setV x b).st = s.st := rfl
@[simp] theorem State.setV_stack (x : Reg) (b : Byte) : (s.setV x b).stack = s.stack := rfl
@[simp] theorem State.setV_mem (x : Reg) (b : Byte) : (s.setV x b).mem = s.mem := rfl
@[simp] theorem State.setV_fault (x : Reg) (b : Byte) : (s.setV x b).fault = s.fault := rfl
@[simp] theorem State.setV_waiting (x : Reg) (b : Byte) : (s.setV x b).waiting = s.waiting := rfl
@[simp] theorem State.setV_params (x : Reg) (b : Byte) : (s.setV x b).params = s.params := rfl
@[simp] theorem State.setV_draws (x : Reg) (b : Byte) : (s.setV x b).draws = s.draws := rfl
@[simp] theorem State.setV_log (x : Reg) (b : Byte) : (s.setV x b).log = s.log := rfl
@[simp] theorem State.setV_ports (x : Reg) (b : Byte) : (s.setV x b).ports = s.ports := rfl
@[simp] theorem State.setV_inputIx (x : Reg) (b : Byte) : (s.setV x b).inputIx = s.inputIx := rfl
@[simp] theorem State.setV_turns (x : Reg) (b : Byte) : (s.setV x b).turns = s.turns := rfl

@[simp] theorem State.setFlag_v (b : Byte) : (s.setFlag b).v = s.v.set flagReg.toNat b flagReg.isLt := rfl
@[simp] theorem State.setFlag_pc (b : Byte) : (s.setFlag b).pc = s.pc := rfl
@[simp] theorem State.setFlag_i (b : Byte) : (s.setFlag b).i = s.i := rfl
@[simp] theorem State.setFlag_dt (b : Byte) : (s.setFlag b).dt = s.dt := rfl
@[simp] theorem State.setFlag_st (b : Byte) : (s.setFlag b).st = s.st := rfl
@[simp] theorem State.setFlag_stack (b : Byte) : (s.setFlag b).stack = s.stack := rfl
@[simp] theorem State.setFlag_mem (b : Byte) : (s.setFlag b).mem = s.mem := rfl
@[simp] theorem State.setFlag_fault (b : Byte) : (s.setFlag b).fault = s.fault := rfl
@[simp] theorem State.setFlag_waiting (b : Byte) : (s.setFlag b).waiting = s.waiting := rfl
@[simp] theorem State.setFlag_params (b : Byte) : (s.setFlag b).params = s.params := rfl
@[simp] theorem State.setFlag_draws (b : Byte) : (s.setFlag b).draws = s.draws := rfl
@[simp] theorem State.setFlag_log (b : Byte) : (s.setFlag b).log = s.log := rfl
@[simp] theorem State.setFlag_ports (b : Byte) : (s.setFlag b).ports = s.ports := rfl
@[simp] theorem State.setFlag_inputIx (b : Byte) : (s.setFlag b).inputIx = s.inputIx := rfl
@[simp] theorem State.setFlag_turns (b : Byte) : (s.setFlag b).turns = s.turns := rfl

@[simp] theorem State.setPc_v (a : Word) : (s.setPc a).v = s.v := rfl
@[simp] theorem State.setPc_pc (a : Word) : (s.setPc a).pc = a := rfl
@[simp] theorem State.setPc_i (a : Word) : (s.setPc a).i = s.i := rfl
@[simp] theorem State.setPc_dt (a : Word) : (s.setPc a).dt = s.dt := rfl
@[simp] theorem State.setPc_st (a : Word) : (s.setPc a).st = s.st := rfl
@[simp] theorem State.setPc_stack (a : Word) : (s.setPc a).stack = s.stack := rfl
@[simp] theorem State.setPc_mem (a : Word) : (s.setPc a).mem = s.mem := rfl
@[simp] theorem State.setPc_fault (a : Word) : (s.setPc a).fault = s.fault := rfl
@[simp] theorem State.setPc_waiting (a : Word) : (s.setPc a).waiting = s.waiting := rfl
@[simp] theorem State.setPc_params (a : Word) : (s.setPc a).params = s.params := rfl
@[simp] theorem State.setPc_draws (a : Word) : (s.setPc a).draws = s.draws := rfl
@[simp] theorem State.setPc_log (a : Word) : (s.setPc a).log = s.log := rfl
@[simp] theorem State.setPc_ports (a : Word) : (s.setPc a).ports = s.ports := rfl
@[simp] theorem State.setPc_inputIx (a : Word) : (s.setPc a).inputIx = s.inputIx := rfl
@[simp] theorem State.setPc_turns (a : Word) : (s.setPc a).turns = s.turns := rfl

@[simp] theorem State.advance_v : (s.advance).v = s.v := rfl
@[simp] theorem State.advance_pc : (s.advance).pc = s.pc + 2#16 := rfl
@[simp] theorem State.advance_i : (s.advance).i = s.i := rfl
@[simp] theorem State.advance_dt : (s.advance).dt = s.dt := rfl
@[simp] theorem State.advance_st : (s.advance).st = s.st := rfl
@[simp] theorem State.advance_stack : (s.advance).stack = s.stack := rfl
@[simp] theorem State.advance_mem : (s.advance).mem = s.mem := rfl
@[simp] theorem State.advance_fault : (s.advance).fault = s.fault := rfl
@[simp] theorem State.advance_waiting : (s.advance).waiting = s.waiting := rfl
@[simp] theorem State.advance_params : (s.advance).params = s.params := rfl
@[simp] theorem State.advance_draws : (s.advance).draws = s.draws := rfl
@[simp] theorem State.advance_log : (s.advance).log = s.log := rfl
@[simp] theorem State.advance_ports : (s.advance).ports = s.ports := rfl
@[simp] theorem State.advance_inputIx : (s.advance).inputIx = s.inputIx := rfl
@[simp] theorem State.advance_turns : (s.advance).turns = s.turns := rfl

@[simp] theorem State.setI_v (a : Word) : (s.setI a).v = s.v := rfl
@[simp] theorem State.setI_pc (a : Word) : (s.setI a).pc = s.pc := rfl
@[simp] theorem State.setI_i (a : Word) : (s.setI a).i = a := rfl
@[simp] theorem State.setI_dt (a : Word) : (s.setI a).dt = s.dt := rfl
@[simp] theorem State.setI_st (a : Word) : (s.setI a).st = s.st := rfl
@[simp] theorem State.setI_stack (a : Word) : (s.setI a).stack = s.stack := rfl
@[simp] theorem State.setI_mem (a : Word) : (s.setI a).mem = s.mem := rfl
@[simp] theorem State.setI_fault (a : Word) : (s.setI a).fault = s.fault := rfl
@[simp] theorem State.setI_waiting (a : Word) : (s.setI a).waiting = s.waiting := rfl
@[simp] theorem State.setI_params (a : Word) : (s.setI a).params = s.params := rfl
@[simp] theorem State.setI_draws (a : Word) : (s.setI a).draws = s.draws := rfl
@[simp] theorem State.setI_log (a : Word) : (s.setI a).log = s.log := rfl
@[simp] theorem State.setI_ports (a : Word) : (s.setI a).ports = s.ports := rfl
@[simp] theorem State.setI_inputIx (a : Word) : (s.setI a).inputIx = s.inputIx := rfl
@[simp] theorem State.setI_turns (a : Word) : (s.setI a).turns = s.turns := rfl

@[simp] theorem State.setWaiting_v (w : Option Reg) : (s.setWaiting w).v = s.v := rfl
@[simp] theorem State.setWaiting_pc (w : Option Reg) : (s.setWaiting w).pc = s.pc := rfl
@[simp] theorem State.setWaiting_i (w : Option Reg) : (s.setWaiting w).i = s.i := rfl
@[simp] theorem State.setWaiting_dt (w : Option Reg) : (s.setWaiting w).dt = s.dt := rfl
@[simp] theorem State.setWaiting_st (w : Option Reg) : (s.setWaiting w).st = s.st := rfl
@[simp] theorem State.setWaiting_stack (w : Option Reg) : (s.setWaiting w).stack = s.stack := rfl
@[simp] theorem State.setWaiting_mem (w : Option Reg) : (s.setWaiting w).mem = s.mem := rfl
@[simp] theorem State.setWaiting_fault (w : Option Reg) : (s.setWaiting w).fault = s.fault := rfl
@[simp] theorem State.setWaiting_waiting (w : Option Reg) : (s.setWaiting w).waiting = w := rfl
@[simp] theorem State.setWaiting_params (w : Option Reg) : (s.setWaiting w).params = s.params := rfl
@[simp] theorem State.setWaiting_draws (w : Option Reg) : (s.setWaiting w).draws = s.draws := rfl
@[simp] theorem State.setWaiting_log (w : Option Reg) : (s.setWaiting w).log = s.log := rfl
@[simp] theorem State.setWaiting_ports (w : Option Reg) : (s.setWaiting w).ports = s.ports := rfl
@[simp] theorem State.setWaiting_inputIx (w : Option Reg) : (s.setWaiting w).inputIx = s.inputIx := rfl
@[simp] theorem State.setWaiting_turns (w : Option Reg) : (s.setWaiting w).turns = s.turns := rfl

@[simp] theorem State.setDt_v (d : Timer) : (s.setDt d).v = s.v := rfl
@[simp] theorem State.setDt_pc (d : Timer) : (s.setDt d).pc = s.pc := rfl
@[simp] theorem State.setDt_i (d : Timer) : (s.setDt d).i = s.i := rfl
@[simp] theorem State.setDt_dt (d : Timer) : (s.setDt d).dt = d := rfl
@[simp] theorem State.setDt_st (d : Timer) : (s.setDt d).st = s.st := rfl
@[simp] theorem State.setDt_stack (d : Timer) : (s.setDt d).stack = s.stack := rfl
@[simp] theorem State.setDt_mem (d : Timer) : (s.setDt d).mem = s.mem := rfl
@[simp] theorem State.setDt_fault (d : Timer) : (s.setDt d).fault = s.fault := rfl
@[simp] theorem State.setDt_waiting (d : Timer) : (s.setDt d).waiting = s.waiting := rfl
@[simp] theorem State.setDt_params (d : Timer) : (s.setDt d).params = s.params := rfl
@[simp] theorem State.setDt_draws (d : Timer) : (s.setDt d).draws = s.draws := rfl
@[simp] theorem State.setDt_log (d : Timer) : (s.setDt d).log = s.log := rfl
@[simp] theorem State.setDt_ports (d : Timer) : (s.setDt d).ports = s.ports := rfl
@[simp] theorem State.setDt_inputIx (d : Timer) : (s.setDt d).inputIx = s.inputIx := rfl
@[simp] theorem State.setDt_turns (d : Timer) : (s.setDt d).turns = s.turns := rfl

@[simp] theorem State.setSt_v (d : Timer) : (s.setSt d).v = s.v := rfl
@[simp] theorem State.setSt_pc (d : Timer) : (s.setSt d).pc = s.pc := rfl
@[simp] theorem State.setSt_i (d : Timer) : (s.setSt d).i = s.i := rfl
@[simp] theorem State.setSt_dt (d : Timer) : (s.setSt d).dt = s.dt := rfl
@[simp] theorem State.setSt_st (d : Timer) : (s.setSt d).st = d := rfl
@[simp] theorem State.setSt_stack (d : Timer) : (s.setSt d).stack = s.stack := rfl
@[simp] theorem State.setSt_mem (d : Timer) : (s.setSt d).mem = s.mem := rfl
@[simp] theorem State.setSt_fault (d : Timer) : (s.setSt d).fault = s.fault := rfl
@[simp] theorem State.setSt_waiting (d : Timer) : (s.setSt d).waiting = s.waiting := rfl
@[simp] theorem State.setSt_params (d : Timer) : (s.setSt d).params = s.params := rfl
@[simp] theorem State.setSt_draws (d : Timer) : (s.setSt d).draws = s.draws := rfl
@[simp] theorem State.setSt_log (d : Timer) : (s.setSt d).log = s.log := rfl
@[simp] theorem State.setSt_ports (d : Timer) : (s.setSt d).ports = s.ports := rfl
@[simp] theorem State.setSt_inputIx (d : Timer) : (s.setSt d).inputIx = s.inputIx := rfl
@[simp] theorem State.setSt_turns (d : Timer) : (s.setSt d).turns = s.turns := rfl

@[simp] theorem State.push_v (a : Word) : (s.push a).v = s.v := rfl
@[simp] theorem State.push_pc (a : Word) : (s.push a).pc = s.pc := rfl
@[simp] theorem State.push_i (a : Word) : (s.push a).i = s.i := rfl
@[simp] theorem State.push_dt (a : Word) : (s.push a).dt = s.dt := rfl
@[simp] theorem State.push_st (a : Word) : (s.push a).st = s.st := rfl
@[simp] theorem State.push_stack (a : Word) : (s.push a).stack = a :: s.stack := rfl
@[simp] theorem State.push_mem (a : Word) : (s.push a).mem = s.mem := rfl
@[simp] theorem State.push_fault (a : Word) : (s.push a).fault = s.fault := rfl
@[simp] theorem State.push_waiting (a : Word) : (s.push a).waiting = s.waiting := rfl
@[simp] theorem State.push_params (a : Word) : (s.push a).params = s.params := rfl
@[simp] theorem State.push_draws (a : Word) : (s.push a).draws = s.draws := rfl
@[simp] theorem State.push_log (a : Word) : (s.push a).log = s.log := rfl
@[simp] theorem State.push_ports (a : Word) : (s.push a).ports = s.ports := rfl
@[simp] theorem State.push_inputIx (a : Word) : (s.push a).inputIx = s.inputIx := rfl
@[simp] theorem State.push_turns (a : Word) : (s.push a).turns = s.turns := rfl

@[simp] theorem State.dropTop_v : (s.dropTop).v = s.v := rfl
@[simp] theorem State.dropTop_pc : (s.dropTop).pc = s.pc := rfl
@[simp] theorem State.dropTop_i : (s.dropTop).i = s.i := rfl
@[simp] theorem State.dropTop_dt : (s.dropTop).dt = s.dt := rfl
@[simp] theorem State.dropTop_st : (s.dropTop).st = s.st := rfl
@[simp] theorem State.dropTop_stack : (s.dropTop).stack = s.stack.tail := rfl
@[simp] theorem State.dropTop_mem : (s.dropTop).mem = s.mem := rfl
@[simp] theorem State.dropTop_fault : (s.dropTop).fault = s.fault := rfl
@[simp] theorem State.dropTop_waiting : (s.dropTop).waiting = s.waiting := rfl
@[simp] theorem State.dropTop_params : (s.dropTop).params = s.params := rfl
@[simp] theorem State.dropTop_draws : (s.dropTop).draws = s.draws := rfl
@[simp] theorem State.dropTop_log : (s.dropTop).log = s.log := rfl
@[simp] theorem State.dropTop_ports : (s.dropTop).ports = s.ports := rfl
@[simp] theorem State.dropTop_inputIx : (s.dropTop).inputIx = s.inputIx := rfl
@[simp] theorem State.dropTop_turns : (s.dropTop).turns = s.turns := rfl

@[simp] theorem State.setByte_v (a : Nat) (b : Byte) : (s.setByte a b).v = s.v := rfl
@[simp] theorem State.setByte_pc (a : Nat) (b : Byte) : (s.setByte a b).pc = s.pc := rfl
@[simp] theorem State.setByte_i (a : Nat) (b : Byte) : (s.setByte a b).i = s.i := rfl
@[simp] theorem State.setByte_dt (a : Nat) (b : Byte) : (s.setByte a b).dt = s.dt := rfl
@[simp] theorem State.setByte_st (a : Nat) (b : Byte) : (s.setByte a b).st = s.st := rfl
@[simp] theorem State.setByte_stack (a : Nat) (b : Byte) : (s.setByte a b).stack = s.stack := rfl
@[simp] theorem State.setByte_mem (a : Nat) (b : Byte) : (s.setByte a b).mem = s.mem.put (unlistedByte s.params a) a b := rfl
@[simp] theorem State.setByte_fault (a : Nat) (b : Byte) : (s.setByte a b).fault = s.fault := rfl
@[simp] theorem State.setByte_waiting (a : Nat) (b : Byte) : (s.setByte a b).waiting = s.waiting := rfl
@[simp] theorem State.setByte_params (a : Nat) (b : Byte) : (s.setByte a b).params = s.params := rfl
@[simp] theorem State.setByte_draws (a : Nat) (b : Byte) : (s.setByte a b).draws = s.draws := rfl
@[simp] theorem State.setByte_log (a : Nat) (b : Byte) : (s.setByte a b).log = s.log := rfl
@[simp] theorem State.setByte_ports (a : Nat) (b : Byte) : (s.setByte a b).ports = s.ports := rfl
@[simp] theorem State.setByte_inputIx (a : Nat) (b : Byte) : (s.setByte a b).inputIx = s.inputIx := rfl
@[simp] theorem State.setByte_turns (a : Nat) (b : Byte) : (s.setByte a b).turns = s.turns := rfl

@[simp] theorem State.nextInput_v : (s.nextInput).v = s.v := rfl
@[simp] theorem State.nextInput_pc : (s.nextInput).pc = s.pc := rfl
@[simp] theorem State.nextInput_i : (s.nextInput).i = s.i := rfl
@[simp] theorem State.nextInput_dt : (s.nextInput).dt = s.dt := rfl
@[simp] theorem State.nextInput_st : (s.nextInput).st = s.st := rfl
@[simp] theorem State.nextInput_stack : (s.nextInput).stack = s.stack := rfl
@[simp] theorem State.nextInput_mem : (s.nextInput).mem = s.mem := rfl
@[simp] theorem State.nextInput_fault : (s.nextInput).fault = s.fault := rfl
@[simp] theorem State.nextInput_waiting : (s.nextInput).waiting = s.waiting := rfl
@[simp] theorem State.nextInput_params : (s.nextInput).params = s.params := rfl
@[simp] theorem State.nextInput_draws : (s.nextInput).draws = s.draws := rfl
@[simp] theorem State.nextInput_log : (s.nextInput).log = s.log := rfl
@[simp] theorem State.nextInput_ports : (s.nextInput).ports = s.ports := rfl
@[simp] theorem State.nextInput_inputIx : (s.nextInput).inputIx = s.inputIx + 1 := rfl
@[simp] theorem State.nextInput_turns : (s.nextInput).turns = s.turns := rfl

@[simp] theorem State.setPorts_v (p : Option Ports) : (s.setPorts p).v = s.v := rfl
@[simp] theorem State.setPorts_pc (p : Option Ports) : (s.setPorts p).pc = s.pc := rfl
@[simp] theorem State.setPorts_i (p : Option Ports) : (s.setPorts p).i = s.i := rfl
@[simp] theorem State.setPorts_dt (p : Option Ports) : (s.setPorts p).dt = s.dt := rfl
@[simp] theorem State.setPorts_st (p : Option Ports) : (s.setPorts p).st = s.st := rfl
@[simp] theorem State.setPorts_stack (p : Option Ports) : (s.setPorts p).stack = s.stack := rfl
@[simp] theorem State.setPorts_mem (p : Option Ports) : (s.setPorts p).mem = s.mem := rfl
@[simp] theorem State.setPorts_fault (p : Option Ports) : (s.setPorts p).fault = s.fault := rfl
@[simp] theorem State.setPorts_waiting (p : Option Ports) : (s.setPorts p).waiting = s.waiting := rfl
@[simp] theorem State.setPorts_params (p : Option Ports) : (s.setPorts p).params = s.params := rfl
@[simp] theorem State.setPorts_draws (p : Option Ports) : (s.setPorts p).draws = s.draws := rfl
@[simp] theorem State.setPorts_log (p : Option Ports) : (s.setPorts p).log = s.log := rfl
@[simp] theorem State.setPorts_ports (p : Option Ports) : (s.setPorts p).ports = p := rfl
@[simp] theorem State.setPorts_inputIx (p : Option Ports) : (s.setPorts p).inputIx = s.inputIx := rfl
@[simp] theorem State.setPorts_turns (p : Option Ports) : (s.setPorts p).turns = s.turns := rfl

@[simp] theorem State.emitDraw_v (r : DrawRequest) : (s.emitDraw r).v = s.v := rfl
@[simp] theorem State.emitDraw_pc (r : DrawRequest) : (s.emitDraw r).pc = s.pc := rfl
@[simp] theorem State.emitDraw_i (r : DrawRequest) : (s.emitDraw r).i = s.i := rfl
@[simp] theorem State.emitDraw_dt (r : DrawRequest) : (s.emitDraw r).dt = s.dt := rfl
@[simp] theorem State.emitDraw_st (r : DrawRequest) : (s.emitDraw r).st = s.st := rfl
@[simp] theorem State.emitDraw_stack (r : DrawRequest) : (s.emitDraw r).stack = s.stack := rfl
@[simp] theorem State.emitDraw_mem (r : DrawRequest) : (s.emitDraw r).mem = s.mem := rfl
@[simp] theorem State.emitDraw_fault (r : DrawRequest) : (s.emitDraw r).fault = s.fault := rfl
@[simp] theorem State.emitDraw_waiting (r : DrawRequest) : (s.emitDraw r).waiting = s.waiting := rfl
@[simp] theorem State.emitDraw_params (r : DrawRequest) : (s.emitDraw r).params = s.params := rfl
@[simp] theorem State.emitDraw_draws (r : DrawRequest) : (s.emitDraw r).draws = s.draws ++ [r] := rfl
@[simp] theorem State.emitDraw_log (r : DrawRequest) : (s.emitDraw r).log = s.log := rfl
@[simp] theorem State.emitDraw_ports (r : DrawRequest) : (s.emitDraw r).ports = s.ports := rfl
@[simp] theorem State.emitDraw_inputIx (r : DrawRequest) : (s.emitDraw r).inputIx = s.inputIx := rfl
@[simp] theorem State.emitDraw_turns (r : DrawRequest) : (s.emitDraw r).turns = s.turns := rfl

@[simp] theorem State.emitLog_v (e : LogEvent) : (s.emitLog e).v = s.v := rfl
@[simp] theorem State.emitLog_pc (e : LogEvent) : (s.emitLog e).pc = s.pc := rfl
@[simp] theorem State.emitLog_i (e : LogEvent) : (s.emitLog e).i = s.i := rfl
@[simp] theorem State.emitLog_dt (e : LogEvent) : (s.emitLog e).dt = s.dt := rfl
@[simp] theorem State.emitLog_st (e : LogEvent) : (s.emitLog e).st = s.st := rfl
@[simp] theorem State.emitLog_stack (e : LogEvent) : (s.emitLog e).stack = s.stack := rfl
@[simp] theorem State.emitLog_mem (e : LogEvent) : (s.emitLog e).mem = s.mem := rfl
@[simp] theorem State.emitLog_fault (e : LogEvent) : (s.emitLog e).fault = s.fault := rfl
@[simp] theorem State.emitLog_waiting (e : LogEvent) : (s.emitLog e).waiting = s.waiting := rfl
@[simp] theorem State.emitLog_params (e : LogEvent) : (s.emitLog e).params = s.params := rfl
@[simp] theorem State.emitLog_draws (e : LogEvent) : (s.emitLog e).draws = s.draws := rfl
@[simp] theorem State.emitLog_log (e : LogEvent) : (s.emitLog e).log = s.log ++ [e] := rfl
@[simp] theorem State.emitLog_ports (e : LogEvent) : (s.emitLog e).ports = s.ports := rfl
@[simp] theorem State.emitLog_inputIx (e : LogEvent) : (s.emitLog e).inputIx = s.inputIx := rfl
@[simp] theorem State.emitLog_turns (e : LogEvent) : (s.emitLog e).turns = s.turns := rfl

@[simp] theorem State.latchFailure_v (k : FailureKind) (w : Word) (a : Nat) : (s.latchFailure k w a).v = s.v := rfl
@[simp] theorem State.latchFailure_pc (k : FailureKind) (w : Word) (a : Nat) : (s.latchFailure k w a).pc = s.pc := rfl
@[simp] theorem State.latchFailure_i (k : FailureKind) (w : Word) (a : Nat) : (s.latchFailure k w a).i = s.i := rfl
@[simp] theorem State.latchFailure_dt (k : FailureKind) (w : Word) (a : Nat) : (s.latchFailure k w a).dt = s.dt := rfl
@[simp] theorem State.latchFailure_st (k : FailureKind) (w : Word) (a : Nat) : (s.latchFailure k w a).st = s.st := rfl
@[simp] theorem State.latchFailure_stack (k : FailureKind) (w : Word) (a : Nat) : (s.latchFailure k w a).stack = s.stack := rfl
@[simp] theorem State.latchFailure_mem (k : FailureKind) (w : Word) (a : Nat) : (s.latchFailure k w a).mem = s.mem := rfl
@[simp] theorem State.latchFailure_fault (k : FailureKind) (w : Word) (a : Nat) : (s.latchFailure k w a).fault = some (FailureRecord.mk k s.pc w (BitVec.ofNat 17 a)) := rfl
@[simp] theorem State.latchFailure_waiting (k : FailureKind) (w : Word) (a : Nat) : (s.latchFailure k w a).waiting = s.waiting := rfl
@[simp] theorem State.latchFailure_params (k : FailureKind) (w : Word) (a : Nat) : (s.latchFailure k w a).params = s.params := rfl
@[simp] theorem State.latchFailure_draws (k : FailureKind) (w : Word) (a : Nat) : (s.latchFailure k w a).draws = s.draws := rfl
@[simp] theorem State.latchFailure_log (k : FailureKind) (w : Word) (a : Nat) : (s.latchFailure k w a).log = s.log := rfl
@[simp] theorem State.latchFailure_ports (k : FailureKind) (w : Word) (a : Nat) : (s.latchFailure k w a).ports = s.ports := rfl
@[simp] theorem State.latchFailure_inputIx (k : FailureKind) (w : Word) (a : Nat) : (s.latchFailure k w a).inputIx = s.inputIx := rfl
@[simp] theorem State.latchFailure_turns (k : FailureKind) (w : Word) (a : Nat) : (s.latchFailure k w a).turns = s.turns := rfl

/-! ### The reads that depend on one field -/

@[simp] theorem State.setV_byteAt (x : Reg) (b : Byte) (c : Nat) : (s.setV x b).byteAt c = s.byteAt c := rfl
@[simp] theorem State.setV_memRead (x : Reg) (b : Byte) (c : Nat) : (s.setV x b).memRead c = s.memRead c := rfl
@[simp] theorem State.setV_inputs (x : Reg) (b : Byte) : (s.setV x b).inputs = s.inputs := rfl
@[simp] theorem State.setV_depth (x : Reg) (b : Byte) : (s.setV x b).depth = s.depth := rfl
@[simp] theorem State.setFlag_byteAt (b : Byte) (c : Nat) : (s.setFlag b).byteAt c = s.byteAt c := rfl
@[simp] theorem State.setFlag_memRead (b : Byte) (c : Nat) : (s.setFlag b).memRead c = s.memRead c := rfl
@[simp] theorem State.setFlag_inputs (b : Byte) : (s.setFlag b).inputs = s.inputs := rfl
@[simp] theorem State.setFlag_depth (b : Byte) : (s.setFlag b).depth = s.depth := rfl
@[simp] theorem State.setPc_readV (a : Word) (r : Reg) : (s.setPc a).readV r = s.readV r := rfl
@[simp] theorem State.setPc_byteAt (a : Word) (c : Nat) : (s.setPc a).byteAt c = s.byteAt c := rfl
@[simp] theorem State.setPc_memRead (a : Word) (c : Nat) : (s.setPc a).memRead c = s.memRead c := rfl
@[simp] theorem State.setPc_inputs (a : Word) : (s.setPc a).inputs = s.inputs := rfl
@[simp] theorem State.setPc_depth (a : Word) : (s.setPc a).depth = s.depth := rfl
@[simp] theorem State.advance_readV (r : Reg) : (s.advance).readV r = s.readV r := rfl
@[simp] theorem State.advance_byteAt (c : Nat) : (s.advance).byteAt c = s.byteAt c := rfl
@[simp] theorem State.advance_memRead (c : Nat) : (s.advance).memRead c = s.memRead c := rfl
@[simp] theorem State.advance_inputs : (s.advance).inputs = s.inputs := rfl
@[simp] theorem State.advance_depth : (s.advance).depth = s.depth := rfl
@[simp] theorem State.setI_readV (a : Word) (r : Reg) : (s.setI a).readV r = s.readV r := rfl
@[simp] theorem State.setI_byteAt (a : Word) (c : Nat) : (s.setI a).byteAt c = s.byteAt c := rfl
@[simp] theorem State.setI_memRead (a : Word) (c : Nat) : (s.setI a).memRead c = s.memRead c := rfl
@[simp] theorem State.setI_inputs (a : Word) : (s.setI a).inputs = s.inputs := rfl
@[simp] theorem State.setI_depth (a : Word) : (s.setI a).depth = s.depth := rfl
@[simp] theorem State.setWaiting_readV (w : Option Reg) (r : Reg) : (s.setWaiting w).readV r = s.readV r := rfl
@[simp] theorem State.setWaiting_byteAt (w : Option Reg) (c : Nat) : (s.setWaiting w).byteAt c = s.byteAt c := rfl
@[simp] theorem State.setWaiting_memRead (w : Option Reg) (c : Nat) : (s.setWaiting w).memRead c = s.memRead c := rfl
@[simp] theorem State.setWaiting_inputs (w : Option Reg) : (s.setWaiting w).inputs = s.inputs := rfl
@[simp] theorem State.setWaiting_depth (w : Option Reg) : (s.setWaiting w).depth = s.depth := rfl
@[simp] theorem State.setDt_readV (d : Timer) (r : Reg) : (s.setDt d).readV r = s.readV r := rfl
@[simp] theorem State.setDt_byteAt (d : Timer) (c : Nat) : (s.setDt d).byteAt c = s.byteAt c := rfl
@[simp] theorem State.setDt_memRead (d : Timer) (c : Nat) : (s.setDt d).memRead c = s.memRead c := rfl
@[simp] theorem State.setDt_inputs (d : Timer) : (s.setDt d).inputs = s.inputs := rfl
@[simp] theorem State.setDt_depth (d : Timer) : (s.setDt d).depth = s.depth := rfl
@[simp] theorem State.setSt_readV (d : Timer) (r : Reg) : (s.setSt d).readV r = s.readV r := rfl
@[simp] theorem State.setSt_byteAt (d : Timer) (c : Nat) : (s.setSt d).byteAt c = s.byteAt c := rfl
@[simp] theorem State.setSt_memRead (d : Timer) (c : Nat) : (s.setSt d).memRead c = s.memRead c := rfl
@[simp] theorem State.setSt_inputs (d : Timer) : (s.setSt d).inputs = s.inputs := rfl
@[simp] theorem State.setSt_depth (d : Timer) : (s.setSt d).depth = s.depth := rfl
@[simp] theorem State.push_readV (a : Word) (r : Reg) : (s.push a).readV r = s.readV r := rfl
@[simp] theorem State.push_byteAt (a : Word) (c : Nat) : (s.push a).byteAt c = s.byteAt c := rfl
@[simp] theorem State.push_memRead (a : Word) (c : Nat) : (s.push a).memRead c = s.memRead c := rfl
@[simp] theorem State.push_inputs (a : Word) : (s.push a).inputs = s.inputs := rfl
@[simp] theorem State.dropTop_readV (r : Reg) : (s.dropTop).readV r = s.readV r := rfl
@[simp] theorem State.dropTop_byteAt (c : Nat) : (s.dropTop).byteAt c = s.byteAt c := rfl
@[simp] theorem State.dropTop_memRead (c : Nat) : (s.dropTop).memRead c = s.memRead c := rfl
@[simp] theorem State.dropTop_inputs : (s.dropTop).inputs = s.inputs := rfl
@[simp] theorem State.setByte_readV (a : Nat) (b : Byte) (r : Reg) : (s.setByte a b).readV r = s.readV r := rfl
@[simp] theorem State.setByte_inputs (a : Nat) (b : Byte) : (s.setByte a b).inputs = s.inputs := rfl
@[simp] theorem State.setByte_depth (a : Nat) (b : Byte) : (s.setByte a b).depth = s.depth := rfl
@[simp] theorem State.nextInput_readV (r : Reg) : (s.nextInput).readV r = s.readV r := rfl
@[simp] theorem State.nextInput_byteAt (c : Nat) : (s.nextInput).byteAt c = s.byteAt c := rfl
@[simp] theorem State.nextInput_memRead (c : Nat) : (s.nextInput).memRead c = s.memRead c := rfl
@[simp] theorem State.nextInput_depth : (s.nextInput).depth = s.depth := rfl
@[simp] theorem State.setPorts_readV (p : Option Ports) (r : Reg) : (s.setPorts p).readV r = s.readV r := rfl
@[simp] theorem State.setPorts_byteAt (p : Option Ports) (c : Nat) : (s.setPorts p).byteAt c = s.byteAt c := rfl
@[simp] theorem State.setPorts_memRead (p : Option Ports) (c : Nat) : (s.setPorts p).memRead c = s.memRead c := rfl
@[simp] theorem State.setPorts_depth (p : Option Ports) : (s.setPorts p).depth = s.depth := rfl
@[simp] theorem State.emitDraw_readV (r : DrawRequest) (x : Reg) : (s.emitDraw r).readV x = s.readV x := rfl
@[simp] theorem State.emitDraw_byteAt (r : DrawRequest) (c : Nat) : (s.emitDraw r).byteAt c = s.byteAt c := rfl
@[simp] theorem State.emitDraw_memRead (r : DrawRequest) (c : Nat) : (s.emitDraw r).memRead c = s.memRead c := rfl
@[simp] theorem State.emitDraw_inputs (r : DrawRequest) : (s.emitDraw r).inputs = s.inputs := rfl
@[simp] theorem State.emitDraw_depth (r : DrawRequest) : (s.emitDraw r).depth = s.depth := rfl
@[simp] theorem State.emitLog_readV (e : LogEvent) (r : Reg) : (s.emitLog e).readV r = s.readV r := rfl
@[simp] theorem State.emitLog_byteAt (e : LogEvent) (c : Nat) : (s.emitLog e).byteAt c = s.byteAt c := rfl
@[simp] theorem State.emitLog_memRead (e : LogEvent) (c : Nat) : (s.emitLog e).memRead c = s.memRead c := rfl
@[simp] theorem State.emitLog_inputs (e : LogEvent) : (s.emitLog e).inputs = s.inputs := rfl
@[simp] theorem State.emitLog_depth (e : LogEvent) : (s.emitLog e).depth = s.depth := rfl
@[simp] theorem State.latchFailure_readV (k : FailureKind) (w : Word) (a : Nat) (r : Reg) : (s.latchFailure k w a).readV r = s.readV r := rfl
@[simp] theorem State.latchFailure_byteAt (k : FailureKind) (w : Word) (a : Nat) (c : Nat) : (s.latchFailure k w a).byteAt c = s.byteAt c := rfl
@[simp] theorem State.latchFailure_memRead (k : FailureKind) (w : Word) (a : Nat) (c : Nat) : (s.latchFailure k w a).memRead c = s.memRead c := rfl
@[simp] theorem State.latchFailure_inputs (k : FailureKind) (w : Word) (a : Nat) : (s.latchFailure k w a).inputs = s.inputs := rfl
@[simp] theorem State.latchFailure_depth (k : FailureKind) (w : Word) (a : Nat) : (s.latchFailure k w a).depth = s.depth := rfl

end Sys2Proof.Machine
end

