-- ==== Sys2Proof/Laws/Ops.lean ====
section
/-! SUPPORT. One lemma per shared operation: everything it can do. -/

namespace Sys2Proof.Machine

/-- A list not all of whose elements have a property splits at its first element without it. -/
theorem exists_first_not {α : Type} (P : α → Prop) (l : List α) (h : ¬ ∀ x ∈ l, P x) :
    ∃ pre x post, l = pre ++ x :: post ∧ (∀ y ∈ pre, P y) ∧ ¬ P x := by
  induction l with
  | nil => simp at h
  | cons y l ih =>
    by_cases hy : P y
    · obtain ⟨pre, x, post, rfl, hp, hx⟩ := ih (fun h' => h (by simpa [hy] using h'))
      exact ⟨y :: pre, x, post, rfl, by simpa [hy] using hp, hx⟩
    · exact ⟨[], y, l, rfl, by simp, hy⟩

variable (s : State)

/-! ### Registers -/

/-- A register read after a register write. -/
theorem State.readV_setV (x y : Reg) (b : Byte) : (s.setV x b).readV y = if x = y then b else s.readV y := by
  simp only [State.readV, State.setV, Vector.getElem_set]
  by_cases h : x = y
  · simp [h]
  · have : x.toNat ≠ y.toNat := fun e => h (BitVec.eq_of_toNat_eq e)
    simp [h, this]

@[simp] theorem State.readV_setV_self (x : Reg) (b : Byte) : (s.setV x b).readV x = b := by
  simp [State.readV_setV]

theorem State.readV_setV_other (x y : Reg) (b : Byte) (h : x ≠ y) : (s.setV x b).readV y = s.readV y := by
  simp [State.readV_setV, h]

/-- VF read after a flag write, and any other register. -/
theorem State.readV_setFlag (y : Reg) (b : Byte) : (s.setFlag b).readV y = if flagReg = y then b else s.readV y :=
  s.readV_setV flagReg y b

/-- A register index, as the number it is. -/
theorem reg_ofNat_toNat (x : Reg) : BitVec.ofNat 4 x.toNat = x := by simp

/-! ### Outcomes -/

@[simp] theorem conclude_next (w : Word) : conclude w (.next s) = s.advance := rfl
@[simp] theorem conclude_jumped (w : Word) : conclude w (.jumped s) = s := rfl
@[simp] theorem conclude_blocked (w : Word) : conclude w (.blocked s) = s := rfl
@[simp] theorem conclude_fail (w : Word) (k : FailureKind) (a : Nat) :
    conclude w (.fail k a s) = s.latchFailure k w a := rfl
@[simp] theorem conclude_stuck (w : Word) : conclude w (.stuck s) = s := rfl

/-- A skip's conclusion writes the pc alone: past one word more where the condition holds (R90). -/
@[simp] theorem conclude_skipWhen (w : Word) (c : Bool) :
    conclude w (skipWhen c s) = s.setPc (if c then s.pc + 4#16 else s.pc + 2#16) := by
  cases c
  · rfl
  · simp only [skipWhen, if_true, conclude_next, State.advance, State.setPc, BitVec.add_assoc]
    rfl

/-- Every meaning answers a next state, the concluded handler's. -/
theorem finish_eq (i : Instr) (h : HandlerOutcome) : finish i h = .next (conclude (encode i) h) := rfl

/-- A request that is answered: recorded, one read of the inputs, and the handler's rest on the answer (R39, R153). -/
theorem State.draw_answered (r : DrawRequest) (k : BitVec 1 → State → State) (c : BitVec 1)
    (h : s.inputs.drawResp = some c) : s.draw r k = .next (k c (s.nextInput.emitDraw r)) := by
  simp [State.draw, h]

/-- A request that is not answered: one read of the inputs and nothing else (R153). -/
theorem State.draw_unanswered (r : DrawRequest) (k : BitVec 1 → State → State) (h : s.inputs.drawResp = none) :
    s.draw r k = .stuck s.nextInput := by
  simp [State.draw, h]

/-- What a request can do. -/
theorem State.draw_cases (r : DrawRequest) (k : BitVec 1 → State → State) :
    (s.inputs.drawResp = none ∧ s.draw r k = .stuck s.nextInput) ∨
    ∃ c, s.inputs.drawResp = some c ∧ s.draw r k = .next (k c (s.nextInput.emitDraw r)) := by
  cases h : s.inputs.drawResp with
  | none => exact .inl ⟨rfl, s.draw_unanswered r k h⟩
  | some c => exact .inr ⟨c, rfl, s.draw_answered r k c h⟩

/-- The state a handler leaves, before the pc policy. -/
def HandlerOutcome.state : HandlerOutcome → State
  | .next s | .jumped s | .blocked s | .fail _ _ s | .stuck s => s

/-! ### Sequences of stores -/

/-- A cell a store can write (R53). -/
def storable (c : Host.Cell) : Prop := Config.progStart ≤ c.1 ∧ c.1 ≤ Config.memTop

/-- The state after storing every cell of a list. -/
def State.storeCells (cs : List Host.Cell) : State := cs.foldl (fun t c => t.setByte c.1 c.2) s

@[simp] theorem State.storeCells_nil : s.storeCells [] = s := rfl
@[simp] theorem State.storeCells_cons (c : Host.Cell) (cs : List Host.Cell) :
    s.storeCells (c :: cs) = (s.setByte c.1 c.2).storeCells cs := rfl

theorem State.memWrite_storable (a : Nat) (b : Byte) (h : storable (a, b)) : s.memWrite a b = .ok (s.setByte a b) :=
  (s.memWrite_eq_ok _ a b).mpr ⟨h, rfl⟩

/-- A store sequence whose cells can all be written stores them all. -/
theorem storeAll_of_storable (cs : List Host.Cell) (h : ∀ c ∈ cs, storable c) :
    storeAll cs s = .next (s.storeCells cs) := by
  induction cs generalizing s with
  | nil => rfl
  | cons c cs ih =>
    simp only [storeAll, s.memWrite_storable c.1 c.2 (h c (by simp))]
    exact ih _ (fun d hd => h d (by simp [hd]))

/-- A store sequence stops at its first cell that cannot be written: the cells before it are stored, and the failure names
its address. -/
theorem storeAll_of_not_storable (pre post : List Host.Cell) (c : Host.Cell) (h : ∀ d ∈ pre, storable d)
    (hc : ¬ storable c) :
    storeAll (pre ++ c :: post) s =
      .fail (if c.1 < Config.progStart then .writeProtected else .memoryBoundsExceeded) c.1 (s.storeCells pre) := by
  induction pre generalizing s with
  | nil =>
    by_cases h1 : c.1 < Config.progStart
    · simp [storeAll, State.memWrite, h1]
    · have h2 : Config.memTop < c.1 := by
        by_contra h2
        exact hc ⟨by omega, by omega⟩
      simp [storeAll, State.memWrite, h1, h2]
  | cons d pre ih =>
    simp only [List.cons_append, storeAll, s.memWrite_storable d.1 d.2 (h d (by simp))]
    exact ih _ (fun e he => h e (by simp [he]))

/-- What a store sequence can do: it ends in NEXT or in a memory failure, and the state it leaves is `storeCells` of some
storable prefix. -/
theorem storeAll_cases (cs : List Host.Cell) :
    ((∀ c ∈ cs, storable c) ∧ storeAll cs s = .next (s.storeCells cs)) ∨
    ∃ pre c post, cs = pre ++ c :: post ∧ (∀ d ∈ pre, storable d) ∧ ¬ storable c ∧
      storeAll cs s =
        .fail (if c.1 < Config.progStart then .writeProtected else .memoryBoundsExceeded) c.1 (s.storeCells pre) := by
  by_cases h : ∀ c ∈ cs, storable c
  · exact .inl ⟨h, storeAll_of_storable s cs h⟩
  · right
    obtain ⟨pre, c, post, rfl, hp, hc⟩ := exists_first_not storable cs h
    exact ⟨pre, c, post, rfl, hp, hc, storeAll_of_not_storable s pre post c hp hc⟩

/-- Storing cells changes memory alone. -/
theorem State.storeCells_frame (cs : List Host.Cell) : s.storeCells cs = { s with mem := (s.storeCells cs).mem } := by
  induction cs generalizing s with
  | nil => rfl
  | cons c cs ih =>
    rw [State.storeCells_cons, ih (s.setByte c.1 c.2)]
    rfl

/-- Storing cells leaves every other address alone. -/
theorem State.storeCells_byteAt_other (cs : List Host.Cell) (a : Nat) (h : ∀ c ∈ cs, c.1 ≠ a) :
    (s.storeCells cs).byteAt a = s.byteAt a := by
  induction cs generalizing s with
  | nil => rfl
  | cons c cs ih =>
    rw [State.storeCells_cons, ih _ (fun d hd => h d (by simp [hd])), State.byteAt_setByte, if_neg (h c (by simp))]

/-- A stored cell whose address occurs once is read back. -/
theorem State.storeCells_byteAt_mem (cs : List Host.Cell) (c : Host.Cell) (h : c ∈ cs)
    (hn : (cs.map Prod.fst).Nodup) : (s.storeCells cs).byteAt c.1 = c.2 := by
  induction cs generalizing s with
  | nil => simp at h
  | cons d cs ih =>
    rw [List.map_cons, List.nodup_cons] at hn
    rcases List.mem_cons.mp h with rfl | h
    · rw [State.storeCells_cons, State.storeCells_byteAt_other, State.byteAt_setByte, if_pos rfl]
      intro e he heq
      exact hn.1 (by rw [← heq]; exact List.mem_map_of_mem he)
    · exact ih _ h hn.2

/-- Storing storable cells keeps the canonical form. -/
theorem State.storeCells_wf (cs : List Host.Cell) (h : ∀ c ∈ cs, storable c) (hm : Memory.wf s.params s.mem) :
    Memory.wf (s.storeCells cs).params (s.storeCells cs).mem := by
  induction cs generalizing s with
  | nil => exact hm
  | cons c cs ih =>
    exact ih _ (fun d hd => h d (by simp [hd])) (s.setByte_wf c.1 c.2 hm (h c (by simp)).2)

/-! ### Sequences of loads -/

/-- The state after loading every slot of a list. -/
def State.loadSlots (rs : List (Nat × Reg)) : State := rs.foldl (fun t r => t.setV r.2 (t.memRead r.1)) s

@[simp] theorem State.loadSlots_nil : s.loadSlots [] = s := rfl
@[simp] theorem State.loadSlots_cons (r : Nat × Reg) (rs : List (Nat × Reg)) :
    s.loadSlots (r :: rs) = (s.setV r.2 (s.memRead r.1)).loadSlots rs := rfl

/-- A load sequence whose addresses all exist loads them all. -/
theorem loadAll_of_inRange (rs : List (Nat × Reg)) (h : ∀ r ∈ rs, r.1 ≤ Config.memTop) :
    loadAll rs s = .next (s.loadSlots rs) := by
  induction rs generalizing s with
  | nil => rfl
  | cons r rs ih =>
    have hr := h r (by simp)
    simp only [loadAll, Nat.not_lt.mpr hr, if_false]
    exact ih _ (fun d hd => h d (by simp [hd]))

/-- A load sequence stops at its first address above the top; the registers before it are loaded. -/
theorem loadAll_of_above (pre post : List (Nat × Reg)) (r : Nat × Reg) (h : ∀ q ∈ pre, q.1 ≤ Config.memTop)
    (hr : Config.memTop < r.1) :
    loadAll (pre ++ r :: post) s = .fail .memoryBoundsExceeded r.1 (s.loadSlots pre) := by
  induction pre generalizing s with
  | nil => simp [loadAll, hr]
  | cons q pre ih =>
    have hq := h q (by simp)
    simp only [List.cons_append, loadAll, Nat.not_lt.mpr hq, if_false]
    exact ih _ (fun e he => h e (by simp [he]))

/-- What a load sequence can do. -/
theorem loadAll_cases (rs : List (Nat × Reg)) :
    ((∀ r ∈ rs, r.1 ≤ Config.memTop) ∧ loadAll rs s = .next (s.loadSlots rs)) ∨
    ∃ pre r post, rs = pre ++ r :: post ∧ (∀ q ∈ pre, q.1 ≤ Config.memTop) ∧ Config.memTop < r.1 ∧
      loadAll rs s = .fail .memoryBoundsExceeded r.1 (s.loadSlots pre) := by
  by_cases h : ∀ r ∈ rs, r.1 ≤ Config.memTop
  · exact .inl ⟨h, loadAll_of_inRange s rs h⟩
  · right
    obtain ⟨pre, r, post, rfl, hp, hr⟩ := exists_first_not (fun r : Nat × Reg => r.1 ≤ Config.memTop) rs h
    have hr := Nat.not_le.mp hr
    exact ⟨pre, r, post, rfl, hp, hr, loadAll_of_above s pre post r hp hr⟩

/-- Loading changes the general registers alone. -/
theorem State.loadSlots_frame (rs : List (Nat × Reg)) : s.loadSlots rs = { s with v := (s.loadSlots rs).v } := by
  induction rs generalizing s with
  | nil => rfl
  | cons r rs ih =>
    rw [State.loadSlots_cons, ih (s.setV r.2 (s.memRead r.1))]
    rfl

/-- Loading leaves every other register alone. -/
theorem State.loadSlots_readV_other (rs : List (Nat × Reg)) (x : Reg) (h : ∀ r ∈ rs, r.2 ≠ x) :
    (s.loadSlots rs).readV x = s.readV x := by
  induction rs generalizing s with
  | nil => rfl
  | cons r rs ih =>
    rw [State.loadSlots_cons, ih _ (fun d hd => h d (by simp [hd])), State.readV_setV_other _ _ _ _ (h r (by simp))]

/-- A loaded register that occurs once holds the byte read for it. -/
theorem State.loadSlots_readV_mem (rs : List (Nat × Reg)) (r : Nat × Reg) (h : r ∈ rs)
    (hn : (rs.map Prod.snd).Nodup) : (s.loadSlots rs).readV r.2 = s.memRead r.1 := by
  induction rs generalizing s with
  | nil => simp at h
  | cons d rs ih =>
    rw [List.map_cons, List.nodup_cons] at hn
    rcases List.mem_cons.mp h with rfl | h
    · rw [State.loadSlots_cons, State.loadSlots_readV_other, State.readV_setV_self]
      intro e he heq
      exact hn.1 (by rw [← heq]; exact List.mem_map_of_mem he)
    · exact (ih _ h hn.2).trans rfl

/-! ### Sprites -/

/-- A sprite copies as many of its rows as lie in the array. -/
theorem State.spriteRows_length (a n : Nat) : (s.spriteRows a n).length = min n (Config.memTop + 1 - a) := by
  induction n generalizing a with
  | zero => simp [State.spriteRows]
  | succ n ih =>
    by_cases h : Config.memTop < a
    · have : Config.memTop + 1 - a = 0 := by omega
      simp [State.spriteRows, h, this]
    · simp only [State.spriteRows, h, if_false, List.length_cons, ih]; omega

/-- Row k is the byte at the k-th address. -/
theorem State.spriteRows_getElem (a n k : Nat) (h : k < (s.spriteRows a n).length) :
    (s.spriteRows a n)[k] = s.memRead (a + k) := by
  induction n generalizing a k with
  | zero => simp [State.spriteRows] at h
  | succ n ih =>
    by_cases ha : Config.memTop < a
    · simp [State.spriteRows, ha] at h
    · cases k with
      | zero => simp [State.spriteRows, ha]
      | succ k =>
        have h' : k < (s.spriteRows (a + 1) n).length := by
          simpa [State.spriteRows, ha] using h
        have := ih (a + 1) k h'
        simp only [State.spriteRows, ha, if_false, List.getElem_cons_succ, this]
        congr 1; omega

/-! ### Timers -/

/-- A tick of a running timer counts down by one and stops at 0; a stopped timer is unchanged (R143). -/
theorem Timer.tick_value (t : Timer) : t.tick.value.toNat = if t.run then t.value.toNat - 1 else t.value.toNat := by
  unfold Timer.tick
  cases hr : t.run
  · simp
  · by_cases h : 0#8 < t.value
    · simp only [h, and_self, if_true]
      have : 0 < t.value.toNat := by simpa [BitVec.lt_def] using h
      bv_omega
    · have : t.value.toNat = 0 := by
        simpa [BitVec.lt_def] using h
      simp [h, this]

@[simp] theorem Timer.tick_run (t : Timer) : t.tick.run = t.run := by
  unfold Timer.tick; split <;> rfl

/-! ### Launch memory -/

/-- Loading a launch input keeps the canonical form. -/
theorem loadCells_wf (p : Params) (lo hi : Nat) (cells : List Host.Cell) (m : Memory) (hhi : hi ≤ Config.memTop)
    (hm : Memory.wf p m) : Memory.wf p (loadCells p lo hi cells m) := by
  unfold loadCells
  induction cells generalizing m with
  | nil => exact hm
  | cons c cells ih =>
    rw [List.foldl_cons]
    by_cases h : launchCell p lo hi c
    · simp only [h, if_true]
      refine ih _ (Memory.put_wf p c.1 c.2 m hm ?_)
      simp [launchCell] at h
      omega
    · simp only [h]
      exact ih _ hm

/-- Loading a launch input leaves the font's bytes alone. -/
theorem loadCells_font (p : Params) (lo hi : Nat) (cells : List Host.Cell) (m : Memory) (a : Nat) (ha : inFont p a = true) :
    Memory.get (unlistedByte p a) a (loadCells p lo hi cells m) = Memory.get (unlistedByte p a) a m := by
  unfold loadCells
  induction cells generalizing m with
  | nil => rfl
  | cons c cells ih =>
    rw [List.foldl_cons, ih]
    by_cases h : launchCell p lo hi c
    · simp only [h, if_true]
      have hca : c.1 ≠ a := by
        rintro rfl
        simp [launchCell, ha] at h
      rw [Memory.get_put _ _ _ _ _ _ (fun e => absurd e hca), if_neg hca]
    · simp [h]

/-- A byte outside the font after a launch input is loaded: in the input's region the last one listed for it, and what was
there where none is or outside the region. -/
theorem loadCells_get (p : Params) (lo hi : Nat) (cells : List Host.Cell) (m : Memory) (a : Nat)
    (ha : inFont p a = false) :
    Memory.get (unlistedByte p a) a (loadCells p lo hi cells m) =
      if lo ≤ a ∧ a ≤ hi then
        ((cells.reverse.find? (fun c => c.1 == a)).map Prod.snd).getD (Memory.get (unlistedByte p a) a m)
      else Memory.get (unlistedByte p a) a m := by
  unfold loadCells
  induction cells generalizing m with
  | nil => simp
  | cons c cells ih =>
    rw [List.foldl_cons, ih, List.reverse_cons, List.find?_append]
    have hput : Memory.get (unlistedByte p a) a (if launchCell p lo hi c then m.put (unlistedByte p c.1) c.1 c.2 else m) =
        if c.1 = a ∧ lo ≤ a ∧ a ≤ hi then c.2 else Memory.get (unlistedByte p a) a m := by
      by_cases hca : c.1 = a
      · subst hca
        by_cases hr : lo ≤ c.1 ∧ c.1 ≤ hi
        · simp [launchCell, ha, hr, Memory.get_put]
        · have : launchCell p lo hi c = false := by simp [launchCell]; omega
          simp [this, hr]
      · split
        · rw [Memory.get_put _ _ _ _ _ _ (fun e => absurd e hca)]; simp [hca]
        · simp [hca]
    rw [hput]
    by_cases hr : lo ≤ a ∧ a ≤ hi
    · simp only [hr, and_self, and_true, if_true]
      cases cells.reverse.find? (fun c => c.1 == a) with
      | some d => simp
      | none => by_cases hca : c.1 = a <;> simp [hca]
    · have : ¬ (c.1 = a ∧ lo ≤ a ∧ a ≤ hi) := fun h => hr h.2
      rw [if_neg hr, if_neg hr, if_neg this]

end Sys2Proof.Machine
end

