-- ==== Sys2Proof/Laws/PerInstr.lean ====
section
/-! SUPPORT. Statements made per instruction: the word of an instruction is one of its own row of the opcode table
(spec/30_encoding.md R77). -/

namespace Sys2Proof

/-- A masked A-type word keeps its top nibble alone. -/
theorem encodeA_mask (op : BitVec 4) (nnn : Addr) : encodeA op nnn &&& 0xF000#16 = encodeA op 0#12 := by
  have h := BitVec.and_append (x₁ := op) (x₂ := 0xF#4) (y₁ := nnn) (y₂ := 0#12)
  refine h.trans ?_
  rw [show (0xF#4 : BitVec 4) = BitVec.allOnes 4 from rfl, BitVec.and_allOnes, BitVec.and_zero]
  rfl

/-- A masked I-type word with an immediate keeps its top nibble alone. -/
theorem encodeI_mask (op : BitVec 4) (x : Reg) (kk : Byte) : encodeI op x kk &&& 0xF000#16 = encodeA op 0#12 :=
  encodeA_mask op (x ++ kk)

/-- A masked I-type word with a sub-opcode keeps its top nibble and its low byte. -/
theorem encodeI_mask_sub (op : BitVec 4) (x : Reg) (kk : Byte) : encodeI op x kk &&& 0xF0FF#16 = encodeI op 0#4 kk := by
  have h := BitVec.and_append (x₁ := op) (x₂ := 0xF#4) (y₁ := (x ++ kk : BitVec 12)) (y₂ := 0x0FF#12)
  have h' := BitVec.and_append (x₁ := x) (x₂ := 0x0#4) (y₁ := kk) (y₂ := 0xFF#8)
  refine h.trans ?_
  rw [show (0xF#4 : BitVec 4) = BitVec.allOnes 4 from rfl, BitVec.and_allOnes]
  refine congrArg (op ++ ·) (h'.trans ?_)
  rw [show (0xFF#8 : BitVec 8) = BitVec.allOnes 8 from rfl, BitVec.and_allOnes, BitVec.and_zero]

/-- A masked D-type or R-type word keeps its top nibble alone. -/
theorem encodeR_mask (op : BitVec 4) (x y d : Reg) : encodeR op x y d &&& 0xF000#16 = encodeA op 0#12 :=
  encodeA_mask op (x ++ (y ++ d))

/-- A masked R-type word with a discriminant keeps its top and low nibbles. -/
theorem encodeR_mask_sub (op : BitVec 4) (x y d : Reg) :
    encodeR op x y d &&& 0xF00F#16 = encodeR op 0#4 0#4 d := by
  have h := BitVec.and_append (x₁ := op) (x₂ := 0xF#4) (y₁ := (x ++ (y ++ d : BitVec 8) : BitVec 12)) (y₂ := 0x00F#12)
  have h' := BitVec.and_append (x₁ := x) (x₂ := 0x0#4) (y₁ := (y ++ d : BitVec 8)) (y₂ := 0x0F#8)
  have h2 := BitVec.and_append (x₁ := y) (x₂ := 0x0#4) (y₁ := d) (y₂ := 0xF#4)
  refine h.trans ?_
  rw [show (0xF#4 : BitVec 4) = BitVec.allOnes 4 from rfl, BitVec.and_allOnes]
  refine congrArg (op ++ ·) (h'.trans ?_)
  rw [BitVec.and_zero]
  refine congrArg (0#4 ++ ·) (h2.trans ?_)
  rw [show (0xF#4 : BitVec 4) = BitVec.allOnes 4 from rfl, BitVec.and_allOnes, BitVec.and_zero]

end Sys2Proof

namespace Sys2Proof.Laws.EncodesToRow

/-- A row of the opcode table with the instruction's index and class takes the instruction's word (R77, R84). -/
def Statement (i : Instr) : Prop :=
  ∃ r ∈ opcodeTable, r.index = i.index ∧ r.format = i.format ∧ encode i &&& r.mask = r.pattern

theorem sys (nnn : Addr) : Statement (.sys nnn) :=
  ⟨⟨0, "sys", .a, 0x0000#16, 0xF000#16⟩, by simp [opcodeTable, opcodeRowsAddress], rfl, rfl, encodeA_mask ..⟩
theorem jump (nnn : Addr) : Statement (.jump nnn) :=
  ⟨⟨1, "jump", .a, 0x1000#16, 0xF000#16⟩, by simp [opcodeTable, opcodeRowsAddress], rfl, rfl, encodeA_mask ..⟩
theorem call (nnn : Addr) : Statement (.call nnn) :=
  ⟨⟨2, "call", .a, 0x2000#16, 0xF000#16⟩, by simp [opcodeTable, opcodeRowsAddress], rfl, rfl, encodeA_mask ..⟩
theorem ret : Statement .ret :=
  ⟨⟨3, "return", .v, 0x00EE#16, 0xFFFF#16⟩, by simp [opcodeTable, opcodeRowsAddress], rfl, rfl, by decide⟩
theorem loadAddress (nnn : Addr) : Statement (.loadAddress nnn) :=
  ⟨⟨4, "load-address", .a, 0xA000#16, 0xF000#16⟩, by simp [opcodeTable, opcodeRowsAddress], rfl, rfl, encodeA_mask ..⟩
theorem jumpOffset (nnn : Addr) : Statement (.jumpOffset nnn) :=
  ⟨⟨5, "jump-offset", .a, 0xB000#16, 0xF000#16⟩, by simp [opcodeTable, opcodeRowsAddress], rfl, rfl, encodeA_mask ..⟩
theorem skipEqualImmediate (x : Reg) (kk : Byte) : Statement (.skipEqualImmediate x kk) :=
  ⟨⟨6, "skip-equal-immediate", .i, 0x3000#16, 0xF000#16⟩, by simp [opcodeTable, opcodeRowsImmediate], rfl, rfl, encodeI_mask ..⟩
theorem skipNotEqualImmediate (x : Reg) (kk : Byte) : Statement (.skipNotEqualImmediate x kk) :=
  ⟨⟨7, "skip-not-equal-immediate", .i, 0x4000#16, 0xF000#16⟩, by simp [opcodeTable, opcodeRowsImmediate], rfl, rfl, encodeI_mask ..⟩
theorem loadImmediate (x : Reg) (kk : Byte) : Statement (.loadImmediate x kk) :=
  ⟨⟨8, "load-immediate", .i, 0x6000#16, 0xF000#16⟩, by simp [opcodeTable, opcodeRowsImmediate], rfl, rfl, encodeI_mask ..⟩
theorem addImmediate (x : Reg) (kk : Byte) : Statement (.addImmediate x kk) :=
  ⟨⟨9, "add-immediate", .i, 0x7000#16, 0xF000#16⟩, by simp [opcodeTable, opcodeRowsImmediate], rfl, rfl, encodeI_mask ..⟩
theorem random (x : Reg) (kk : Byte) : Statement (.random x kk) :=
  ⟨⟨10, "random", .i, 0xC000#16, 0xF000#16⟩, by simp [opcodeTable, opcodeRowsImmediate], rfl, rfl, encodeI_mask ..⟩
theorem skipIfKeyPressed (x : Reg) : Statement (.skipIfKeyPressed x) :=
  ⟨⟨11, "skip-if-key-pressed", .i, 0xE09E#16, 0xF0FF#16⟩, by simp [opcodeTable, opcodeRowsImmediate], rfl, rfl, encodeI_mask_sub ..⟩
theorem skipIfKeyNotPressed (x : Reg) : Statement (.skipIfKeyNotPressed x) :=
  ⟨⟨12, "skip-if-key-not-pressed", .i, 0xE0A1#16, 0xF0FF#16⟩, by simp [opcodeTable, opcodeRowsImmediate], rfl, rfl, encodeI_mask_sub ..⟩
theorem loadDelayTimer (x : Reg) : Statement (.loadDelayTimer x) :=
  ⟨⟨13, "load-delay-timer", .i, 0xF007#16, 0xF0FF#16⟩, by simp [opcodeTable, opcodeRowsImmediate], rfl, rfl, encodeI_mask_sub ..⟩
theorem waitForKey (x : Reg) : Statement (.waitForKey x) :=
  ⟨⟨14, "wait-for-key", .i, 0xF00A#16, 0xF0FF#16⟩, by simp [opcodeTable, opcodeRowsImmediate], rfl, rfl, encodeI_mask_sub ..⟩
theorem setDelayTimer (x : Reg) : Statement (.setDelayTimer x) :=
  ⟨⟨15, "set-delay-timer", .i, 0xF015#16, 0xF0FF#16⟩, by simp [opcodeTable, opcodeRowsImmediate], rfl, rfl, encodeI_mask_sub ..⟩
theorem setSoundTimer (x : Reg) : Statement (.setSoundTimer x) :=
  ⟨⟨16, "set-sound-timer", .i, 0xF018#16, 0xF0FF#16⟩, by simp [opcodeTable, opcodeRowsImmediate], rfl, rfl, encodeI_mask_sub ..⟩
theorem incrementAddressRegister (x : Reg) : Statement (.incrementAddressRegister x) :=
  ⟨⟨17, "increment-address-register", .i, 0xF01E#16, 0xF0FF#16⟩, by simp [opcodeTable, opcodeRowsImmediate], rfl, rfl, encodeI_mask_sub ..⟩
theorem fontAddress (x : Reg) : Statement (.fontAddress x) :=
  ⟨⟨18, "font-address", .i, 0xF029#16, 0xF0FF#16⟩, by simp [opcodeTable, opcodeRowsImmediate], rfl, rfl, encodeI_mask_sub ..⟩
theorem binaryCodedDecimal (x : Reg) : Statement (.binaryCodedDecimal x) :=
  ⟨⟨19, "binary-coded-decimal", .i, 0xF033#16, 0xF0FF#16⟩, by simp [opcodeTable, opcodeRowsImmediate], rfl, rfl, encodeI_mask_sub ..⟩
theorem saveRegisters (x : Reg) : Statement (.saveRegisters x) :=
  ⟨⟨20, "save-registers", .i, 0xF055#16, 0xF0FF#16⟩, by simp [opcodeTable, opcodeRowsImmediate], rfl, rfl, encodeI_mask_sub ..⟩
theorem restoreRegisters (x : Reg) : Statement (.restoreRegisters x) :=
  ⟨⟨21, "restore-registers", .i, 0xF065#16, 0xF0FF#16⟩, by simp [opcodeTable, opcodeRowsImmediate], rfl, rfl, encodeI_mask_sub ..⟩
theorem move (x y : Reg) : Statement (.move x y) :=
  ⟨⟨22, "move", .r, 0x8000#16, 0xF00F#16⟩, by simp [opcodeTable, opcodeRowsRegister], rfl, rfl, encodeR_mask_sub ..⟩
theorem or (x y : Reg) : Statement (.or x y) :=
  ⟨⟨23, "or", .r, 0x8001#16, 0xF00F#16⟩, by simp [opcodeTable, opcodeRowsRegister], rfl, rfl, encodeR_mask_sub ..⟩
theorem and (x y : Reg) : Statement (.and x y) :=
  ⟨⟨24, "and", .r, 0x8002#16, 0xF00F#16⟩, by simp [opcodeTable, opcodeRowsRegister], rfl, rfl, encodeR_mask_sub ..⟩
theorem xor (x y : Reg) : Statement (.xor x y) :=
  ⟨⟨25, "xor", .r, 0x8003#16, 0xF00F#16⟩, by simp [opcodeTable, opcodeRowsRegister], rfl, rfl, encodeR_mask_sub ..⟩
theorem add (x y : Reg) : Statement (.add x y) :=
  ⟨⟨26, "add", .r, 0x8004#16, 0xF00F#16⟩, by simp [opcodeTable, opcodeRowsRegister], rfl, rfl, encodeR_mask_sub ..⟩
theorem sub (x y : Reg) : Statement (.sub x y) :=
  ⟨⟨27, "sub", .r, 0x8005#16, 0xF00F#16⟩, by simp [opcodeTable, opcodeRowsRegister], rfl, rfl, encodeR_mask_sub ..⟩
theorem shr (x y : Reg) : Statement (.shr x y) :=
  ⟨⟨28, "shr", .r, 0x8006#16, 0xF00F#16⟩, by simp [opcodeTable, opcodeRowsRegister], rfl, rfl, encodeR_mask_sub ..⟩
theorem subn (x y : Reg) : Statement (.subn x y) :=
  ⟨⟨29, "subn", .r, 0x8007#16, 0xF00F#16⟩, by simp [opcodeTable, opcodeRowsRegister], rfl, rfl, encodeR_mask_sub ..⟩
theorem shl (x y : Reg) : Statement (.shl x y) :=
  ⟨⟨30, "shl", .r, 0x800E#16, 0xF00F#16⟩, by simp [opcodeTable, opcodeRowsRegister], rfl, rfl, encodeR_mask_sub ..⟩
theorem skipIfEqual (x y : Reg) : Statement (.skipIfEqual x y) :=
  ⟨⟨31, "skip-if-equal", .r, 0x5000#16, 0xF00F#16⟩, by simp [opcodeTable, opcodeRowsRegister], rfl, rfl, encodeR_mask_sub ..⟩
theorem skipIfNotEqual (x y : Reg) : Statement (.skipIfNotEqual x y) :=
  ⟨⟨32, "skip-if-not-equal", .r, 0x9000#16, 0xF00F#16⟩, by simp [opcodeTable, opcodeRowsRegister], rfl, rfl, encodeR_mask_sub ..⟩
theorem clearScreen : Statement .clearScreen :=
  ⟨⟨33, "clear-screen", .v, 0x00E0#16, 0xFFFF#16⟩, by simp [opcodeTable, opcodeRowsAddress], rfl, rfl, by decide⟩
theorem drawSprite (x y n : Reg) : Statement (.drawSprite x y n) :=
  ⟨⟨34, "draw-sprite", .d, 0xD000#16, 0xF000#16⟩, by simp [opcodeTable, opcodeRowsAddress], rfl, rfl, encodeR_mask ..⟩

end Sys2Proof.Laws.EncodesToRow
end

