-- ==== Sys2Proof/Laws/Step.lean ====
section
/-! SUPPORT. What a step can do, said once: the cases of `step` and of the engine's turn. -/

namespace Sys2Proof.Machine

/-- A meaning never stops the machine. -/
theorem exec_answers (i : Instr) (s : State) : ∃ t, exec i s = .next t := by
  cases i <;> exact ⟨_, rfl⟩

/-- The engine's turn never stops the machine. -/
theorem engineStep_answers (s : State) : ∃ t, engineStep s = .next t := by
  unfold engineStep
  split
  · exact ⟨_, rfl⟩
  · split
    · exact exec_answers _ _
    · exact ⟨_, rfl⟩

theorem halted_eq_false (s : State) : s.halted = false ↔ s.fault = none ∧ s.waiting = none := by
  simp [State.halted]

/-- What the engine's turn can do (spec/30_encoding.md R88). -/
theorem engineStep_cases {s t : State} (h : engineStep s = .next t) :
    (s.halted = true ∧ t = s) ∨
    (s.halted = false ∧ ∃ i, decode s.fetchWord = .ok i ∧ exec i s = .next t) ∨
    (s.halted = false ∧ ∃ why, decode s.fetchWord = .reject why ∧ t = s.decodeFailure) := by
  unfold engineStep at h
  cases hs : s.halted
  · rw [hs] at h
    cases hd : decode s.fetchWord with
    | ok i => rw [hd] at h; exact .inr (.inl ⟨rfl, i, rfl, h⟩)
    | reject why => rw [hd] at h; cases h; exact .inr (.inr ⟨rfl, why, rfl, rfl⟩)
  · rw [hs] at h; cases h; exact .inl ⟨rfl, rfl⟩

/-- What a host's action can do, when it is not a shutdown (spec/60_exceptions.md R150). -/
theorem hostAct_cases {a : HostAction} {s t : State} (h : hostAct a s = .next t) :
    (∃ k, a = .keyPress k ∧ t = s.completeWait k) ∨
    (a = .delayStart ∧ t = s.setDt s.dt.start) ∨ (a = .delayStop ∧ t = s.setDt s.dt.stop) ∨
    (a = .soundStart ∧ t = s.setSt s.st.start) ∨ (a = .soundStop ∧ t = s.setSt s.st.stop) ∨
    (∃ l, a = .reset l ∧ t = s.launch l) := by
  cases a <;> simp_all [hostAct, eq_comm]

/-- What a step can do: one turn of one agent (spec/60_exceptions.md R149). -/
theorem step_cases {s t : State} (h : step s = .next t) :
    (s.turns = [] ∧ engineStep s = .next t) ∨
    (∃ p rest u, s.turns = .engine p :: rest ∧ engineStep { s with turns := rest, ports := p } = .next u ∧
      t = u.setPorts none) ∨
    (∃ rest, s.turns = .delayTick :: rest ∧ t = State.delayTick { s with turns := rest }) ∨
    (∃ rest, s.turns = .soundTick :: rest ∧ t = State.soundTick { s with turns := rest }) ∨
    (∃ a rest, s.turns = .host a :: rest ∧ hostAct a { s with turns := rest } = .next t) := by
  unfold step at h
  split at h
  · next hs => exact .inl ⟨hs, h⟩
  · next p rest hs =>
    obtain ⟨u, hu⟩ := engineStep_answers { s with turns := rest, ports := p }
    rw [hu] at h
    cases h
    exact .inr (.inl ⟨p, rest, u, hs, hu, rfl⟩)
  · next rest hs => cases h; exact .inr (.inr (.inl ⟨rest, hs, rfl⟩))
  · next rest hs => cases h; exact .inr (.inr (.inr (.inl ⟨rest, hs, rfl⟩)))
  · next a rest hs => exact .inr (.inr (.inr (.inr ⟨a, rest, hs, h⟩)))

/-- The wait's completion (R107). -/
theorem State.completeWait_cases (s : State) (k : Reg) :
    (s.waiting = none ∧ s.completeWait k = s) ∨
    ∃ x, s.waiting = some x ∧ s.completeWait k = ((s.setV x (k.setWidth 8)).setWaiting none).advance := by
  unfold State.completeWait
  cases hw : s.waiting with
  | none => exact .inl ⟨rfl, rfl⟩
  | some x => exact .inr ⟨x, rfl, rfl⟩

/-- The word placed for a fetch is the word fetched. -/
theorem State.fetchWord_placeWord (s : State) (w : Word) : (s.placeWord w).fetchWord = w := by
  unfold State.placeWord
  generalize hpc : (if s.pc.toNat < Config.memTop then s.pc else BitVec.ofNat 16 Config.progStart) = pc
  have hlt : pc.toNat < Config.memTop := by
    subst hpc
    split
    · assumption
    · decide
  unfold State.fetchWord
  simp only [State.setByte_pc]
  rw [State.memRead_setByte _ _ _ _ (by omega), State.memRead_setByte _ _ _ _ (by omega),
    State.memRead_setByte _ _ _ _ (by omega)]
  simp only [if_true, if_neg (Nat.succ_ne_self _)]
  exact wordOfBytes_bytes w

end Sys2Proof.Machine
end

