-- ==== Sys2Proof/Tests/Slice0.lean ====
section
/-! SUPPORT. The model's own tests: ill-formed terms, the decoding of words written out from the spec, one step of each
instruction against the vectors of spec/95_test_vectors.md, and a witness for the hypotheses of every statement. -/

namespace Sys2Proof.Tests

open Sys2Proof.Machine

/-- The next state of an outcome. -/
def result : Host.Outcome State Fault Refusal → Option State
  | .next s => some s
  | _ => none

/-- One step on a word placed at the pc. -/
def run (w : Nat) (s : State) : Option State := result (step (s.withFetchWord 16 w))

/-- The state after reset with two registers set. -/
def two (x : Reg) (a : Byte) (y : Reg) (b : Byte) : State := (State.reset.setV x a).setV y b

/-- The state after reset with I and one register set. -/
def atI (i : Word) (x : Reg) (b : Byte) : State := (State.reset.setI i).setV x b

/-- The state after reset with the host's values on the data inputs. -/
def driven (keys : BitVec 16) (r : Byte) (c : Option (BitVec 1)) : State := State.reset.setPorts (some ⟨keys, r, c⟩)

/-- A stack of n entries 0x200. -/
def deep (n : Nat) : State := { State.reset with stack := List.replicate n 0x200#16 }

/-- The state after reset with the agents' coming turns. -/
def scripted (ts : List Turn) (s : State) : State := { s with turns := ts }

/-! ### Well-formedness -/

/-- R79: 0x00E0 is clear-screen, so no `sys` has it. -/
theorem test_wf_refuses_sys_clear : (Instr.sys 0x0E0#12).wf = false := by decide
theorem test_wf_refuses_sys_return : (Instr.sys 0x0EE#12).wf = false := by decide
theorem test_wf_accepts_sys_neighbour : (Instr.sys 0x0E1#12).wf = true := by decide

/-! ### Decoding: the words of spec/95_test_vectors.md 2.1 and of the instruction rules' examples -/

theorem test_decode_sys : decode 0x0123#16 = .ok (.sys 0x123#12) := by decide
theorem test_decode_sys_zero : decode 0x0000#16 = .ok (.sys 0x000#12) := by decide
theorem test_decode_sys_e1 : decode 0x00E1#16 = .ok (.sys 0x0E1#12) := by decide
theorem test_decode_sys_1e0 : decode 0x01E0#16 = .ok (.sys 0x1E0#12) := by decide
theorem test_decode_jump : decode 0x1ABC#16 = .ok (.jump 0xABC#12) := by decide
theorem test_decode_call : decode 0x2ABC#16 = .ok (.call 0xABC#12) := by decide
theorem test_decode_return : decode 0x00EE#16 = .ok .ret := by decide
theorem test_decode_loadAddress : decode 0xA123#16 = .ok (.loadAddress 0x123#12) := by decide
theorem test_decode_jumpOffset : decode 0xB123#16 = .ok (.jumpOffset 0x123#12) := by decide
theorem test_decode_skipEqualImmediate : decode 0x3A7F#16 = .ok (.skipEqualImmediate 0xA#4 0x7F#8) := by decide
theorem test_decode_skipNotEqualImmediate : decode 0x4A7F#16 = .ok (.skipNotEqualImmediate 0xA#4 0x7F#8) := by decide
theorem test_decode_loadImmediate : decode 0x6A7F#16 = .ok (.loadImmediate 0xA#4 0x7F#8) := by decide
theorem test_decode_addImmediate : decode 0x7A7F#16 = .ok (.addImmediate 0xA#4 0x7F#8) := by decide
theorem test_decode_random : decode 0xC1FF#16 = .ok (.random 0x1#4 0xFF#8) := by decide
theorem test_decode_skipIfKeyPressed : decode 0xE19E#16 = .ok (.skipIfKeyPressed 0x1#4) := by decide
theorem test_decode_skipIfKeyNotPressed : decode 0xE1A1#16 = .ok (.skipIfKeyNotPressed 0x1#4) := by decide
theorem test_decode_loadDelayTimer : decode 0xF107#16 = .ok (.loadDelayTimer 0x1#4) := by decide
theorem test_decode_waitForKey : decode 0xF10A#16 = .ok (.waitForKey 0x1#4) := by decide
theorem test_decode_setDelayTimer : decode 0xF115#16 = .ok (.setDelayTimer 0x1#4) := by decide
theorem test_decode_setSoundTimer : decode 0xF118#16 = .ok (.setSoundTimer 0x1#4) := by decide
theorem test_decode_incrementAddressRegister : decode 0xF11E#16 = .ok (.incrementAddressRegister 0x1#4) := by decide
theorem test_decode_fontAddress : decode 0xF129#16 = .ok (.fontAddress 0x1#4) := by decide
theorem test_decode_binaryCodedDecimal : decode 0xF133#16 = .ok (.binaryCodedDecimal 0x1#4) := by decide
theorem test_decode_saveRegisters : decode 0xF155#16 = .ok (.saveRegisters 0x1#4) := by decide
theorem test_decode_restoreRegisters : decode 0xF165#16 = .ok (.restoreRegisters 0x1#4) := by decide
theorem test_decode_move : decode 0x8120#16 = .ok (.move 0x1#4 0x2#4) := by decide
theorem test_decode_or : decode 0x8121#16 = .ok (.or 0x1#4 0x2#4) := by decide
theorem test_decode_and : decode 0x8122#16 = .ok (.and 0x1#4 0x2#4) := by decide
theorem test_decode_xor : decode 0x8123#16 = .ok (.xor 0x1#4 0x2#4) := by decide
theorem test_decode_add : decode 0x8124#16 = .ok (.add 0x1#4 0x2#4) := by decide
theorem test_decode_sub : decode 0x8125#16 = .ok (.sub 0x1#4 0x2#4) := by decide
theorem test_decode_shr : decode 0x8126#16 = .ok (.shr 0x1#4 0x2#4) := by decide
theorem test_decode_subn : decode 0x8127#16 = .ok (.subn 0x1#4 0x2#4) := by decide
theorem test_decode_shl : decode 0x812E#16 = .ok (.shl 0x1#4 0x2#4) := by decide
theorem test_decode_skipIfEqual : decode 0x5120#16 = .ok (.skipIfEqual 0x1#4 0x2#4) := by decide
theorem test_decode_skipIfNotEqual : decode 0x9120#16 = .ok (.skipIfNotEqual 0x1#4 0x2#4) := by decide
theorem test_decode_clearScreen : decode 0x00E0#16 = .ok .clearScreen := by decide
theorem test_decode_drawSprite : decode 0xD12F#16 = .ok (.drawSprite 0x1#4 0x2#4 0xF#4) := by decide
theorem test_decode_drawSprite_no_rows : decode 0xD120#16 = .ok (.drawSprite 0x1#4 0x2#4 0x0#4) := by decide

/-- The illegal words that 2.1 lists, each by its family. -/
theorem test_reject_5 : decode 0x5121#16 = .reject (.illegal5 0x5121#16) := by decide
theorem test_reject_8_first : decode 0x8128#16 = .reject (.illegal8 0x8128#16) := by decide
theorem test_reject_8_last : decode 0x812F#16 = .reject (.illegal8 0x812F#16) := by decide
theorem test_reject_9 : decode 0x9121#16 = .reject (.illegal9 0x9121#16) := by decide
theorem test_reject_E : decode 0xE1A0#16 = .reject (.illegalE 0xE1A0#16) := by decide
theorem test_reject_F : decode 0xFFFF#16 = .reject (.illegalF 0xFFFF#16) := by decide
theorem test_reject_short : decodeBytes [0x12#8] = (.reject .truncated, [0x12#8]) := by decide

/-- R57: the byte at the lower address is the high one; the rest of the bytes is given back. -/
theorem test_decode_bytes : decodeBytes [0x1A#8, 0xBC#8, 0x77#8] = (.ok (.jump 0xABC#12), [0x77#8]) := by decide
theorem test_decode_table_word : decodeTableWord 16 0x8124 = some (.add 0x1#4 0x2#4) := by decide

/-- The table indices of 2.1. -/
theorem test_index_clear : tableIndex 0x00E0#16 = 33 := by decide
theorem test_index_sys : tableIndex 0x00E1#16 = 0 := by decide
theorem test_index_none : tableIndex 0x5121#16 = 35 := by decide
theorem test_class_void : classOf 0x00EE#16 = .v := by decide

/-- R86's spelling. -/
theorem test_asm_draw : (Instr.drawSprite 0x0#4 0xF#4 0x5#4).asm = "draw-sprite V0, VF, 5" := by decide

/-! ### The address family (2.2) -/

theorem test_sys_logs : (run 0x0123 State.reset).map (fun t => (t.pc, t.log)) =
    some (0x202#16, [.illegalSystemCall 0x200#16 0x123#12]) := by decide
theorem test_jump_low_odd : (run 0x1001 State.reset).map State.pc = some 0x001#16 := by decide
theorem test_call_pushes_itself : (run 0x2300 (State.reset.setPc 0x20A#16)).map (fun t => (t.pc, t.stack)) =
    some (0x300#16, [0x20A#16]) := by decide
theorem test_call_overflow : (run 0x2300 (deep 16)).map (fun t => (t.pc, t.depth, t.fault)) =
    some (0x200#16, 16, some ⟨.stackOverflow, 0x200#16, 0x2300#16, 0#17⟩) := by decide
theorem test_return_wraps : (run 0x00EE { State.reset with stack := [0xFFFE#16] }).map (fun t => (t.pc, t.depth)) =
    some (0x0000#16, 0) := by decide
theorem test_return_underflow : (run 0x00EE (State.reset.setPc 0x300#16)).map (fun t => (t.pc, t.fault)) =
    some (0x300#16, some ⟨.stackUnderflow, 0x300#16, 0x00EE#16, 0#17⟩) := by decide
theorem test_load_address : (run 0xA250 (State.reset.setI 0x1234#16)).map (fun t => (t.pc, t.i)) =
    some (0x202#16, 0x250#16) := by decide
theorem test_jump_offset_passes_top : (run 0xBFFF (State.reset.setV 0x0#4 0xFF#8)).map State.pc = some 0x10FE#16 := by
  decide
theorem test_jump_offset_uses_v0 : (run 0xBA00 (State.reset.setV 0xA#4 0x77#8)).map State.pc = some 0xA00#16 := by decide

/-! ### The immediate family (2.3) -/

theorem test_skip_equal_taken : (run 0x332A (State.reset.setV 0x3#4 0x2A#8)).map State.pc = some 0x204#16 := by decide
theorem test_skip_wraps : (result (exec (.skipEqualImmediate 0x0#4 0x00#8) (State.reset.setPc 0xFFFE#16))).map State.pc =
    some 0x0002#16 := by decide
theorem test_skip_not_equal : (run 0x432A (State.reset.setV 0x3#4 0x2A#8)).map State.pc = some 0x202#16 := by decide
theorem test_load_immediate : (run 0x6A7F State.reset).map (fun t => t.readV 0xA#4) = some 0x7F#8 := by decide
theorem test_add_immediate_no_carry : (run 0x7120 (State.reset.setV 0x1#4 0xF0#8)).map
    (fun t => (t.readV 0x1#4, t.readV 0xF#4)) = some (0x10#8, 0x00#8) := by decide
theorem test_random_masked : (run 0xC20F (driven 0#16 0xB7#8 none)).map (fun t => (t.readV 0x2#4, t.inputIx)) =
    some (0x07#8, 1) := by decide
theorem test_key_pressed : (run 0xE59E ((driven 0x0008#16 0#8 none).setV 0x5#4 0x03#8)).map State.pc = some 0x204#16 := by
  decide
theorem test_key_pressed_out_of_range : (run 0xE59E ((driven 0xFFFF#16 0#8 none).setV 0x5#4 0x13#8)).map State.pc =
    some 0x202#16 := by decide
theorem test_key_released : (run 0xE5A1 ((driven 0xFFF7#16 0#8 none).setV 0x5#4 0x03#8)).map State.pc = some 0x204#16 := by
  decide
theorem test_key_released_out_of_range : (run 0xE5A1 ((driven 0x0000#16 0#8 none).setV 0x5#4 0x10#8)).map State.pc =
    some 0x202#16 := by decide

/-! ### The Fx family (2.4) -/

theorem test_load_delay_timer : (run 0xF307 (State.reset.setDt ⟨0x3C#8, true⟩)).map (fun t => t.readV 0x3#4) =
    some 0x3C#8 := by decide
theorem test_wait_blocks : (run 0xF40A State.reset).map (fun t => (t.waiting, t.pc)) = some (some 0x4#4, 0x200#16) := by
  decide
theorem test_wait_completes : (result (step (scripted [.host (.keyPress 0xB#4)] (State.reset.setWaiting (some 0x4#4))))).map
    (fun t => (t.readV 0x4#4, t.waiting, t.pc)) = some (0x0B#8, none, 0x202#16) := by decide
theorem test_set_delay_timer : (run 0xF215 (State.reset.setV 0x2#4 0x3C#8)).map State.dt = some ⟨0x3C#8, true⟩ := by decide
theorem test_set_sound_timer : (run 0xF218 (State.reset.setV 0x2#4 0x05#8)).map (fun t => (t.soundTimer, t.dt.value)) =
    some (0x05#8, 0x00#8) := by decide
theorem test_increment_passes_top : (run 0xF01E (atI 0x0FFF#16 0x0#4 0x02#8)).map State.i = some 0x1001#16 := by decide
theorem test_increment_wraps : (run 0xF01E (atI 0xFFFF#16 0x0#4 0x01#8)).map State.i = some 0x0000#16 := by decide
theorem test_font_address : (run 0xF329 (atI 0x250#16 0x3#4 0x0A#8)).map State.i = some 50#16 := by decide
theorem test_font_address_ignored : (run 0xF329 (atI 0x456#16 0x3#4 0x1A#8)).map State.i = some 0x456#16 := by decide
theorem test_bcd : (run 0xF533 (atI 0x300#16 0x5#4 0x9C#8)).map
    (fun t => (t.memRead 0x300, t.memRead 0x301, t.memRead 0x302)) = some (1#8, 5#8, 6#8) := by decide
theorem test_bcd_protected : (run 0xF533 (State.setPc (atI 0x1FF#16 0x5#4 0xFF#8) 0x300#16)).map
    (fun t => (t.memRead 0x200, t.memRead 0x201, t.fault)) =
    some (5#8, 5#8, some ⟨.writeProtected, 0x300#16, 0xF533#16, 0x1FF#17⟩) := by decide
theorem test_save : (run 0xF155 ((atI 0x300#16 0x1#4 0x0B#8).setV 0x0#4 0x0A#8)).map
    (fun t => (t.memRead 0x300, t.memRead 0x301, t.i)) = some (0x0A#8, 0x0B#8, 0x300#16) := by decide
theorem test_save_past_top : (run 0xF555 ((atI 0xFFE#16 0x1#4 0x22#8).setV 0x0#4 0x11#8)).map
    (fun t => (t.memRead 0xFFE, t.memRead 0xFFF, t.pc, t.fault)) =
    some (0x11#8, 0x22#8, 0x200#16, some ⟨.memoryBoundsExceeded, 0x200#16, 0xF555#16, 0x1000#17⟩) := by decide
theorem test_restore_font : (run 0xF065 (State.reset.setV 0x0#4 0x77#8)).map (fun t => t.readV 0x0#4) = some 0xF0#8 := by
  decide
theorem test_restore_past_top : (run 0xF365 (((atI 0xFFE#16 0x2#4 0x33#8).setByte 0xFFE 0xAA#8).setByte 0xFFF 0xBB#8)).map
    (fun t => (t.readV 0x0#4, t.readV 0x1#4, t.readV 0x2#4, t.fault)) =
    some (0xAA#8, 0xBB#8, 0x33#8, some ⟨.memoryBoundsExceeded, 0x200#16, 0xF365#16, 0x1000#17⟩) := by decide

/-! ### The register family (2.5) -/

theorem test_move : (run 0x8010 (State.reset.setV 0x1#4 0x42#8)).map (fun t => t.readV 0x0#4) = some 0x42#8 := by decide
theorem test_or : (run 0x8011 (two 0x0#4 0x0C#8 0x1#4 0x0A#8)).map (fun t => t.readV 0x0#4) = some 0x0E#8 := by decide
theorem test_and : (run 0x8012 (two 0x0#4 0x0C#8 0x1#4 0x0A#8)).map (fun t => t.readV 0x0#4) = some 0x08#8 := by decide
theorem test_xor : (run 0x8013 (two 0x0#4 0x0C#8 0x1#4 0x0A#8)).map (fun t => t.readV 0x0#4) = some 0x06#8 := by decide
theorem test_add_carry : (run 0x8014 (two 0x0#4 0xFF#8 0x1#4 0x01#8)).map (fun t => (t.readV 0x0#4, t.readV 0xF#4)) =
    some (0x00#8, 0x01#8) := by decide
theorem test_add_into_flag : (run 0x8F14 (two 0xF#4 0xF0#8 0x1#4 0x20#8)).map (fun t => t.readV 0xF#4) = some 0x01#8 := by
  decide
theorem test_sub_borrow : (run 0x8015 (two 0x0#4 0x05#8 0x1#4 0x0A#8)).map (fun t => (t.readV 0x0#4, t.readV 0xF#4)) =
    some (0xFB#8, 0x00#8) := by decide
theorem test_sub_equal : (run 0x8015 (two 0x0#4 0x05#8 0x1#4 0x05#8)).map (fun t => (t.readV 0x0#4, t.readV 0xF#4)) =
    some (0x00#8, 0x01#8) := by decide
theorem test_shr : (run 0x8016 (two 0x0#4 0xFB#8 0x1#4 0xFF#8)).map (fun t => (t.readV 0x0#4, t.readV 0xF#4)) =
    some (0x7D#8, 0x01#8) := by decide
theorem test_shr_flag : (run 0x8F06 (State.reset.setV 0xF#4 0x03#8)).map (fun t => t.readV 0xF#4) = some 0x00#8 := by decide
theorem test_subn_y : (run 0x8017 (two 0x0#4 0x05#8 0x1#4 0x0A#8)).map
    (fun t => (t.readV 0x0#4, t.readV 0x1#4, t.readV 0xF#4)) = some (0x05#8, 0x05#8, 0x01#8) := by decide
theorem test_subn_x : (run 0x8017 { two 0x0#4 0x0A#8 0x1#4 0x05#8 with params := ⟨0, Config.standardFont, .x⟩ }).map
    (fun t => (t.readV 0x0#4, t.readV 0x1#4, t.readV 0xF#4)) = some (0xFB#8, 0x05#8, 0x00#8) := by decide
theorem test_shl : (run 0x801E (State.reset.setV 0x0#4 0xC1#8)).map (fun t => (t.readV 0x0#4, t.readV 0xF#4)) =
    some (0x82#8, 0x01#8) := by decide
theorem test_shl_flag : (run 0x8F0E (State.reset.setV 0xF#4 0x80#8)).map (fun t => t.readV 0xF#4) = some 0x02#8 := by decide
theorem test_skip_if_equal : (run 0x5010 ((two 0x0#4 0x05#8 0x1#4 0x05#8).setPc 0x206#16)).map State.pc =
    some 0x20A#16 := by decide
theorem test_skip_if_not_equal : (run 0x9010 ((two 0x0#4 0x04#8 0x1#4 0x05#8).setPc 0x206#16)).map State.pc =
    some 0x20A#16 := by decide
theorem test_skip_if_not_equal_same : (run 0x9000 State.reset).map State.pc = some 0x202#16 := by decide

/-! ### The display (2.6, S9) -/

theorem test_clear_screen : (run 0x00E0 ((driven 0#16 0#8 (some 1#1)).setV 0xF#4 0x55#8)).map (fun t => (t.draws, t.readV 0xF#4, t.pc)) =
    some ([.clear], 0x55#8, 0x202#16) := by decide
/-- R153: without an answer nothing shows and the pc stays. -/
theorem test_clear_screen_unanswered : (run 0x00E0 (driven 0#16 0#8 none)).map (fun t => (t.draws, t.pc)) =
    some ([], 0x200#16) := by decide
/-- S9: three of five rows are in the array. -/
theorem test_draw_truncated : (run 0xD015 ((((((driven 0#16 0#8 (some 1#1)).setV 0x0#4 0x08#8).setV 0x1#4 0x10#8).setI
    0xFFD#16).setByte 0xFFD 0x81#8).setByte 0xFFF 0x24#8)).map (fun t => (t.draws, t.readV 0xF#4, t.log)) =
    some ([.sprite 0x08#8 0x10#8 [0x81#8, 0x00#8, 0x24#8]], 0x01#8, [.spriteTruncated 0x200#16 5 3]) := by decide
theorem test_draw_old_flag_origin : (run 0xDF10 (((driven 0#16 0#8 (some 1#1)).setV 0xF#4 0x07#8).setV 0x1#4 0x02#8)).map
    (fun t => (t.draws, t.readV 0xF#4)) = some ([.sprite 0x07#8 0x02#8 []], 0x01#8) := by decide

/-! ### Memory and fetch (2.7) -/

theorem test_read_above : State.reset.memRead 0x1000 = 0x00#8 := by decide
theorem test_write_below : State.reset.memWrite 0x1FF 0x11#8 = .belowProgram := by decide
theorem test_write_above : State.reset.memWrite 0x1000 0x11#8 = .aboveTop := by decide
theorem test_write_canonical : (((State.reset.setByte 0x301 1#8).setByte 0x300 2#8).setByte 0x301 0#8).mem =
    [(0x300, 2#8)] := by decide
theorem test_fetch_at_top : ((State.reset.setByte 0xFFF 0x12#8).setPc 0xFFF#16).fetchWord = 0x1200#16 := by decide

/-! ### The other agents, failures and reset (2.8, 2.9) -/

theorem test_tick : (result (step (scripted [.delayTick] (State.reset.setDt ⟨5#8, true⟩)))).map State.dt =
    some ⟨4#8, true⟩ := by decide
theorem test_tick_floor : (Timer.tick ⟨0#8, true⟩) = ⟨0#8, true⟩ := by decide
theorem test_tick_stopped : (Timer.tick ⟨5#8, false⟩) = ⟨5#8, false⟩ := by decide
theorem test_decode_failure : (run 0xFFFF State.reset).map (fun t => (t.fault, t.pc)) =
    some (some ⟨.decodeFailure, 0x200#16, 0xFFFF#16, 0#17⟩, 0x200#16) := by decide
theorem test_decode_failure_granted : (result (step (scripted [.engine (some ⟨0#16, 0#8, none⟩)]
    (State.reset.withFetchWord 16 0xFFFF)))).map (fun t => (t.fault, t.ports, t.turns)) =
    some (some ⟨.decodeFailure, 0x200#16, 0xFFFF#16, 0#17⟩, none, []) := by decide
/-- The codes of R132. -/
theorem test_failure_codes : (FailureKind.decodeFailure.code, FailureKind.stackOverflow.code,
    FailureKind.stackUnderflow.code, FailureKind.memoryBoundsExceeded.code, FailureKind.writeProtected.code) =
    (1#3, 2#3, 3#3, 4#3, 5#3) := by decide
theorem test_status_failed : (run 0x00EE State.reset).map (fun t => (t.status.faultValid, t.status.faultKind, t.status.dtRun)) =
    some (1#1, 3#3, 1#1) := by decide
theorem test_granted_step_releases : (result (step (scripted [.engine (some ⟨0#16, 0x5A#8, none⟩)]
    ((State.reset.setByte 0x200 0xC2#8).setByte 0x201 0xFF#8)))).map (fun t => (t.readV 0x2#4, t.ports, t.turns)) =
    some (0x5A#8, none, []) := by decide
/-- A launch input with one byte of a program. -/
def oneByte : Launch := { Launch.zero with romImage := [(0x200, 0x12#8)] }
theorem test_reset_turn : (result (step (scripted [.host (.reset oneByte)]
    (State.latchFailure (deep 3) .stackOverflow 0x2200#16 0)))).map (fun t => (t.pc, t.depth, t.fault)) =
    some (0x200#16, 0, none) := by decide
theorem test_reset_loads_the_image : (result (step (scripted [.host (.reset oneByte)] State.reset))).map
    (fun t => (t.mem, t.memRead 0x000)) = some ([(0x200, 0x12#8)], 0xF0#8) := by decide
/-- R157: both lists reach memory, the last byte listed for an address stays, and the font's bytes are the font's. -/
theorem test_reset_loads_both_regions : (result (step (scripted [.host (.reset
    { Launch.zero with reservedFill := [(0x100, 1#8), (0x000, 2#8)], romImage := [(0xFFF, 3#8), (0xFFF, 4#8)] })]
    State.reset))).map (fun t => (t.memRead 0x100, t.memRead 0x000, t.memRead 0xFFF)) = some (1#8, 0xF0#8, 4#8) := by decide
theorem test_shut_down : step (scripted [.host .shutDown] State.reset) = .fault .shutDown := rfl
theorem test_word_runs_from_reset : (run 0x6A7F State.reset).isSome = true := by decide

/-! ### Witnesses for the hypotheses of the statements

Each names the statement it is for, and shows a state and operands at the ends of its ranges that meet its hypotheses. -/

/-- A failed engine. -/
def failed : State := State.reset.latchFailure .stackUnderflow 0x00EE#16 0

theorem witness_DecodeOfEncodeIsTheInstruction : (Instr.sys 0xFFF#12).wf = true ∧ (Instr.drawSprite 0xF#4 0xF#4 0xF#4).wf = true := by
  decide
theorem witness_EncodeOfDecodeIsTheWord : decode 0xFF65#16 = .ok (.restoreRegisters 0xF#4) := by decide
theorem witness_FetchIsBigEndianAndNeverFails : 0x1000 ≤ (State.reset.setPc 0x1000#16).pc.toNat ∧
    0x1000 ≤ (State.reset.setPc 0xFFFF#16).pc.toNat := by decide
theorem witness_StepRunsTheDecodedInstruction_empty : State.reset.fault = none ∧ State.reset.waiting = none ∧
    decode State.reset.fetchWord = .ok (.sys 0#12) ∧ State.reset.turns = [] := by decide
theorem witness_StepRunsTheDecodedInstruction_granted : (scripted [.engine none] State.reset).fault = none ∧
    (scripted [.engine none] State.reset).waiting = none ∧
    decode (scripted [.engine none] State.reset).fetchWord = .ok (.sys 0#12) ∧
    (scripted [.engine none] State.reset).turns = .engine none :: [] := by decide
theorem witness_PlacedWordIsFetchedAndRun : decode 0x2ABC#16 = .ok (.call 0xABC#12) := by decide
theorem witness_IllegalWordLatchesDecodeFailure : (State.reset.withFetchWord 16 0xFFFF).turns = [] ∧
    (State.reset.withFetchWord 16 0xFFFF).fault = none ∧ (State.reset.withFetchWord 16 0xFFFF).waiting = none ∧
    decode (State.reset.withFetchWord 16 0xFFFF).fetchWord = .reject (.illegalF 0xFFFF#16) := by decide
theorem witness_IllegalWordLatchesDecodeFailure_granted :
    (scripted [.engine none] (State.reset.withFetchWord 16 0x8128)).fault = none ∧
    (scripted [.engine none] (State.reset.withFetchWord 16 0x8128)).waiting = none ∧
    decode (scripted [.engine none] (State.reset.withFetchWord 16 0x8128)).fetchWord = .reject (.illegal8 0x8128#16) ∧
    (scripted [.engine none] (State.reset.withFetchWord 16 0x8128)).turns = .engine none :: [] := by decide
theorem witness_HaltedEngineTakesNoStep_granted :
    (scripted [.engine none] (State.reset.setWaiting (some 0x3#4))).waiting.isSome = true ∧
    (scripted [.engine none] (State.reset.setWaiting (some 0x3#4))).turns = .engine none :: [] ∧
    (scripted [.engine none] failed).fault.isSome = true ∧
    (scripted [.engine none] failed).turns = .engine none :: [] := by decide
theorem witness_HaltedEngineTakesNoStep_failed : failed.turns = [] ∧ failed.fault.isSome = true := by decide
theorem witness_HaltedEngineTakesNoStep_waiting : (State.reset.setWaiting (some 0x3#4)).turns = [] ∧
    (State.reset.setWaiting (some 0x3#4)).waiting.isSome = true := by decide
theorem witness_FailureIsLeftOnlyByReset : (scripted [.delayTick] failed).fault.isSome = true ∧
    (scripted [.delayTick] failed).waiting = none ∧
    (∀ l rest, (scripted [.delayTick] failed).turns ≠ .host (.reset l) :: rest) ∧
    (result (step (scripted [.delayTick] failed))).isSome = true :=
  ⟨rfl, rfl, fun _ _ h => by simp [scripted] at h, rfl⟩
theorem witness_CallPushesItsOwnAddress : (deep 0).depth < 16 ∧ (deep 15).depth < 16 := by decide
theorem witness_ReturnGoesTwoPastThePoppedAddress : (deep 1).stack = 0x200#16 :: [] ∧
    (deep 16).stack = 0x200#16 :: List.replicate 15 0x200#16 := by decide
theorem witness_StackFailuresChangeNothingElse : (deep 16).depth = 16 ∧ (deep 0).depth = 0 := by decide
theorem witness_CallThenReturnResumesAfterTheCall : (deep 15).depth < 16 ∧
    (result (exec (.call 0x300#12) (deep 15))).map State.stack = some (deep 16).stack := by decide
theorem witness_KeyPressCompletesAPendingWait : (scripted [.host (.keyPress 0xF#4)] State.reset).turns =
      .host (.keyPress 0xF#4) :: [] ∧ (scripted [.host (.keyPress 0xF#4)] State.reset).waiting = none ∧
    (scripted [.host (.keyPress 0xF#4)] (State.reset.setWaiting (some 0xF#4))).waiting = some 0xF#4 := by decide
theorem witness_KeySkipsSampleTheirKey : ((State.reset.setV 0x1#4 15#8).readV 0x1#4).toNat < 16 ∧
    ¬ ((State.reset.setV 0x1#4 16#8).readV 0x1#4).toNat < 16 := by decide
theorem witness_FontAddressPointsAtTheGlyph : ((State.reset.setV 0x1#4 15#8).readV 0x1#4).toNat < 16 ∧
    16 ≤ ((State.reset.setV 0x1#4 16#8).readV 0x1#4).toNat := by decide
theorem witness_DecimalDigitsAreStored : (0x200 ≤ (State.reset.setI 0x200#16).i.toNat ∧
      (State.reset.setI 0x200#16).i.toNat + 2 ≤ 0xFFF) ∧
    0x200 ≤ (State.reset.setI 0xFFD#16).i.toNat ∧ (State.reset.setI 0xFFD#16).i.toNat + 2 ≤ 0xFFF := by decide
/-- The four clauses meet at I = 0xFFE, 0x1FD, 0x1FE and 0x1FF. -/
theorem witness_DecimalDigitsFailAtTheFirstBadTarget : 0xFFF < (State.reset.setI 0xFFE#16).i.toNat + 2 ∧
    (State.reset.setI 0x1FD#16).i.toNat + 2 < 0x200 ∧
    ((State.reset.setI 0x1FE#16).i.toNat + 1 < 0x200 ∧ ¬ (State.reset.setI 0x1FE#16).i.toNat + 2 < 0x200) ∧
    ((State.reset.setI 0x1FF#16).i.toNat < 0x200 ∧ ¬ (State.reset.setI 0x1FF#16).i.toNat + 1 < 0x200) := by decide
theorem witness_DecimalDigitsFail_two : (result (exec (.binaryCodedDecimal 0x5#4) (atI 0x1FE#16 0x5#4 0xFF#8))).map
    (fun t => (t.memRead 0x200, t.fault)) = some (5#8, some ⟨.writeProtected, 0x200#16, 0xF533#16, 0x1FF#17⟩) := by decide
theorem witness_SaveStoresTheRegistersUpward : (0x200 ≤ (State.reset.setI 0x200#16).i.toNat ∧
      (State.reset.setI 0x200#16).i.toNat + (0xF#4).toNat ≤ 0xFFF) ∧
    0x200 ≤ (State.reset.setI 0xFF0#16).i.toNat ∧ (State.reset.setI 0xFF0#16).i.toNat + (0xF#4).toNat ≤ 0xFFF := by decide
theorem witness_SaveFailsAfterThePrefixThatFits : (State.reset.setI 0x1FF#16).i.toNat < 0x200 ∧
    0xFFF < (State.reset.setI 0xFF1#16).i.toNat + (0xF#4).toNat ∧
    0xFFF < (State.reset.setI 0x1000#16).i.toNat + (0x0#4).toNat := by decide
theorem witness_RestoreLoadsTheRegistersUpward : (State.reset.setI 0x000#16).i.toNat + (0xF#4).toNat ≤ 0xFFF ∧
    (State.reset.setI 0xFF0#16).i.toNat + (0xF#4).toNat ≤ 0xFFF := by decide
theorem witness_RestoreFailsAfterThePrefixThatFits : 0xFFF < (State.reset.setI 0xFF1#16).i.toNat + (0xF#4).toNat ∧
    0xFFF < (State.reset.setI 0xFFFF#16).i.toNat + (0x0#4).toNat := by decide
theorem witness_AddWritesSumAndCarry : (0x0#4 : Reg) ≠ 0xF#4 ∧
    256 ≤ ((two 0x0#4 0xFF#8 0x1#4 0x01#8).readV 0x0#4).toNat + ((two 0x0#4 0xFF#8 0x1#4 0x01#8).readV 0x1#4).toNat ∧
    ¬ 256 ≤ ((two 0x0#4 0x7F#8 0x1#4 0x80#8).readV 0x0#4).toNat + ((two 0x0#4 0x7F#8 0x1#4 0x80#8).readV 0x1#4).toNat := by
  decide
theorem witness_SubnWritesTheSelectedRegister : State.reset.params.subnDest = .y ∧
    (State.params { State.reset with params := ⟨0, Config.standardFont, .x⟩ }).subnDest = .x ∧
    (0x1#4 : Reg) ≠ 0xF#4 := by decide
theorem witness_ClearScreenIssuesOneRequest : (driven 0#16 0#8 (some 0#1)).inputs.drawResp = some 0#1 := by decide
theorem witness_DrawSpriteIssuesItsRows : (driven 0#16 0#8 (some 1#1)).inputs.drawResp = some 1#1 := by decide
theorem witness_DrawWithoutAnAnswerStays : (driven 0#16 0#8 none).inputs.drawResp = none := by decide
theorem witness_RegistersOutsideTheWriteColumnAreKept : (result (exec (.add 0x0#4 0x1#4) State.reset)).isSome = true ∧
    (0x1#4 : Reg) ∉ (Instr.add 0x0#4 0x1#4).registersWritten State.reset.params := by decide
theorem witness_BytesOutsideTheStoreAddressesAreKept :
    (result (exec (.saveRegisters 0x1#4) (State.reset.setI 0x300#16))).isSome = true ∧
    0x302 ∉ (Instr.saveRegisters 0x1#4).storeAddresses (State.reset.setI 0x300#16) ∧
    0x301 ∈ (Instr.saveRegisters 0x1#4).storeAddresses (State.reset.setI 0x300#16) := by decide
theorem witness_SpecialStateIsKeptByOtherInstructions : (result (exec (.or 0x0#4 0x1#4) State.reset)).isSome = true ∧
    (Instr.or 0x0#4 0x1#4).writesI = false ∧ (Instr.or 0x0#4 0x1#4).writesStack = false ∧
    (Instr.or 0x0#4 0x1#4).writesDelayTimer = false ∧ (Instr.or 0x0#4 0x1#4).writesSoundTimer = false ∧
    (Instr.or 0x0#4 0x1#4).canFail = false ∧ (Instr.or 0x0#4 0x1#4).waits = false ∧
    (Instr.or 0x0#4 0x1#4).draws = false ∧ (Instr.or 0x0#4 0x1#4).logs = false ∧
    (Instr.or 0x0#4 0x1#4).readsInput = false := by decide
theorem witness_PcMovesOnlyInTheseWays : (result (exec (.skipIfEqual 0x1#4 0x1#4) State.reset)).map State.pc =
      some 0x204#16 ∧ (result (exec (.waitForKey 0x1#4) State.reset)).map State.pc = some 0x200#16 ∧
    (result (exec .ret (deep 1))).map State.pc = some 0x202#16 := by decide
theorem witness_InputsReachOnlyTheInstructionsThatReadThem : (Instr.call 0x300#12).readsInput = false ∧
    (result (exec (.call 0x300#12) State.reset)).isSome = true := by decide
theorem witness_FailureRecordsItsInstruction : State.reset.fault = none ∧
    (result (exec .ret State.reset)).map State.fault =
      some (some ⟨.stackUnderflow, 0x200#16, 0x00EE#16, 0#17⟩) := by decide
theorem witness_TimerTurnsWriteTheirOwnTimer : (scripted [.soundTick] State.reset).turns = .soundTick :: [] ∧
    (scripted [.delayTick] State.reset).turns = .delayTick :: [] ∧
    (scripted [.host .delayStop] State.reset).turns = .host .delayStop :: [] ∧
    (scripted [.host .soundStart] State.reset).turns = .host .soundStart :: [] ∧
    (scripted [.host .delayStart] State.reset).turns = .host .delayStart :: [] ∧
    (scripted [.host .soundStop] State.reset).turns = .host .soundStop :: [] := by decide
/-- The sampled state counts down: the bound is met with the timer at 1. -/
theorem witness_DelayTimerRisesOnlyWhenSet :
    (result (step (scripted [.delayTick] (State.reset.setDt ⟨1#8, true⟩)))).isSome = true ∧
    (∀ l rest, (scripted [.delayTick] (State.reset.setDt ⟨1#8, true⟩)).turns ≠ .host (.reset l) :: rest) ∧
    ∀ x, decode (scripted [.delayTick] (State.reset.setDt ⟨1#8, true⟩)).fetchWord ≠ .ok (.setDelayTimer x) :=
  ⟨rfl, fun _ _ h => by simp [scripted] at h, by decide⟩
theorem witness_ResetTurnLaunches : (scripted [.host (.reset Launch.zero)] failed).turns =
    .host (.reset Launch.zero) :: [] := by decide
/-- The address ranges of the memory clauses, at their ends, with the font at 0. -/
theorem witness_ResetTurnLaunches_memory : (80 < 0x200 ∧ failed.params.fontBase.val + 80 ≤ 80) ∧
    (0x1FF < 0x200 ∧ failed.params.fontBase.val + 80 ≤ 0x1FF) ∧ (0x200 ≤ 0x200 ∧ 0xFFF ≤ 0xFFF) ∧
    listedByte [(0x200, 1#8), (0x200, 2#8)] 0x200 = 2#8 ∧ listedByte [(0x200, 1#8)] 0xFFF = 0#8 := by decide
theorem witness_SpinningEngineChangesNothing : (State.reset.withFetchWord 16 0x1200).Spinning ∧
    (State.reset.withFetchWord 16 0x1200).turns = [] :=
  ⟨⟨by decide, 0x200#12, by decide, by decide⟩, by decide⟩
/-- Where memory lists nothing the font is its glyphs. -/
theorem fontIntact_of_nothing_listed (s : State) (h : s.mem = []) : s.FontIntact := by
  intro k
  have hk : inFont s.params (s.params.fontBase.val + k.val) = true := by simp [inFont, Config.fontSize]
  simp [State.byteAt, h, Memory.get, unlistedByte, hk, fontByte, Vector.getD, Array.getD]
/-- The failed engine, with a full stack, meets the invariant and has a step. -/
theorem witness_EveryStepKeepsTheInvariant :
    ({ failed with stack := (deep 16).stack } : State).Inv ∧
    (result (step { failed with stack := (deep 16).stack })).isSome = true :=
  ⟨⟨by decide, fontIntact_of_nothing_listed _ rfl, by decide, by decide, by intro f h; cases h; rfl⟩, rfl⟩
/-- The canonical form with a byte listed. -/
theorem witness_EveryStepKeepsTheInvariant_memory :
    Memory.wf Params.default ((State.reset.setByte 0xFFF 0x12#8).setByte 0x200 0x34#8).mem := by decide
theorem witness_LowMemoryChangesOnlyAtReset : (result (step State.reset)).isSome = true ∧
    ∀ l rest, State.reset.turns ≠ .host (.reset l) :: rest :=
  ⟨by decide, fun _ _ h => by simp [State.reset] at h⟩
theorem witness_StoredBytesAreFetched : (0x200 ≤ (State.reset.setI 0xFFE#16).i.toNat ∧
      (State.reset.setI 0xFFE#16).i.toNat + (0x1#4).toNat ≤ 0xFFF) ∧ (0x1#4).toNat ≤ (0x1#4).toNat ∧
    (State.reset.setPc 0xFFF#16).pc.toNat = (State.reset.setI 0xFFE#16).i.toNat + (0x1#4).toNat ∧
    (State.reset.setPc 0xFFE#16).pc.toNat + 1 = (State.reset.setI 0xFFE#16).i.toNat + (0x1#4).toNat := by decide
theorem witness_StatusShowsTheFailure : State.reset.fault = none ∧ failed.fault.isSome = true ∧
    State.reset.waiting = none ∧ (State.reset.setWaiting (some 0x3#4)).waiting = some 0x3#4 ∧
    (failed.fault.map FailureRecord.kind) = some .stackUnderflow ∧
    ((deep 0).decodeFailure.fault.map FailureRecord.kind) = some .decodeFailure ∧
    ((deep 0).latchFailure .stackOverflow 0#16 0).fault.map FailureRecord.kind = some .stackOverflow ∧
    ((deep 0).latchFailure .memoryBoundsExceeded 0#16 0x10001).fault.map FailureRecord.kind =
      some .memoryBoundsExceeded ∧
    ((deep 0).latchFailure .writeProtected 0#16 0).fault.map FailureRecord.kind = some .writeProtected := by decide
theorem witness_TicksCountDownToZero : (Timer.create 10#8).run = true ∧ (Timer.stop (Timer.create 10#8)).run = false := by
  decide
theorem witness_ShiftsMoveTheOuterBitToVF : (0x0#4 : Reg) ≠ 0xF#4 ∧ (0xF#4 : Reg) = 0xF#4 := by decide

end Sys2Proof.Tests
end

section
/-! What an instruction can do, said once (`exec_effect`); the frame statements of spec/10_state.md and the ways of the pc
follow from it. That the data inputs reach no instruction but those that read them, the state after reset and the status
output stand beside it. -/

namespace Sys2Proof.Machine

/-! ### Registers kept outside a list -/

/-- The general registers of `t` outside a list read as in `s`. -/
def State.KeepsRegistersBut (s : State) (l : List Reg) (t : State) : Prop := ∀ r, r ∉ l → t.readV r = s.readV r

theorem State.KeepsRegistersBut.refl (s : State) (l : List Reg) : s.KeepsRegistersBut l s := fun _ _ => rfl

/-- A write of a listed register keeps the others. -/
theorem State.KeepsRegistersBut.setV {s t : State} {l : List Reg} (h : s.KeepsRegistersBut l t) {x : Reg} (hx : x ∈ l)
    (b : Byte) : s.KeepsRegistersBut l (t.setV x b) := fun r hr =>
  (t.readV_setV_other x r b (ne_of_mem_of_not_mem hx hr)).trans (h r hr)

/-- Loads into listed registers keep the others. -/
theorem State.KeepsRegistersBut.loadSlots {s : State} {l : List Reg} {rs : List (Nat × Reg)}
    (hl : ∀ q ∈ rs, q.2 ∈ l) : s.KeepsRegistersBut l (s.loadSlots rs) := fun r hr =>
  s.loadSlots_readV_other rs r (fun q hq => ne_of_mem_of_not_mem (hl q hq) hr)

/-- restore-registers loads the registers of its write column (spec/10_state.md R22). -/
theorem State.restoreSlots_mem_written (s : State) (p : Params) (x : Reg) {q : Nat × Reg} (hq : q ∈ s.restoreSlots x) :
    q.2 ∈ (Instr.restoreRegisters x).registersWritten p := by
  obtain ⟨k, hk, rfl⟩ := List.mem_map.mp hq
  exact List.mem_map_of_mem hk

/-! ### What an instruction can do -/

/-- Everything an instruction can do to a state: the shape of the next state, and which instructions take it. -/
inductive Effect (i : Instr) (s : State) : State → Prop
  /-- Registers of the write column, perhaps from a data input. -/
  | registers (v : Vector Byte 16) (n : Nat)
      (kept : s.KeepsRegistersBut (i.registersWritten s.params) { s with v := v })
      (unread : i.readsInput = false → n = s.inputIx) :
      Effect i s { s with v := v, inputIx := n, pc := s.pc + 2#16 }
  /-- A skip, taken or not, perhaps on a data input. -/
  | skip (taken : Bool) (n : Nat) (skips : i.skips = true) (unread : i.readsInput = false → n = s.inputIx) :
      Effect i s { s with inputIx := n, pc := if taken then s.pc + 4#16 else s.pc + 2#16 }
  | address (a : Word) (writes : i.writesI = true) : Effect i s { s with i := a, pc := s.pc + 2#16 }
  | delayTimer (b : Byte) (writes : i.writesDelayTimer = true) :
      Effect i s { s with dt := s.dt.set b, pc := s.pc + 2#16 }
  | soundTimer (b : Byte) (writes : i.writesSoundTimer = true) :
      Effect i s { s with st := s.st.set b, pc := s.pc + 2#16 }
  /-- Every store of the instruction. -/
  | stores (cs : List Host.Cell) (addresses : ∀ c ∈ cs, storable c ∧ c.1 ∈ i.storeAddresses s) :
      Effect i s { s with mem := (s.storeCells cs).mem, pc := s.pc + 2#16 }
  /-- A failure, with the stores and the loads before it (spec/60_exceptions.md R135). -/
  | failure (k : FailureKind) (a : Nat) (cs : List Host.Cell) (v : Vector Byte 16) (fails : i.canFail = true)
      (addresses : ∀ c ∈ cs, storable c ∧ c.1 ∈ i.storeAddresses s)
      (kept : s.KeepsRegistersBut (i.registersWritten s.params) { s with v := v }) :
      Effect i s { s with v := v, mem := (s.storeCells cs).mem, fault := some ⟨k, s.pc, encode i, BitVec.ofNat 17 a⟩ }
  | jump (nnn : Addr) (is : i = .jump nnn) : Effect i s { s with pc := zextAddr nnn }
  | jumpOffset (nnn : Addr) (is : i = .jumpOffset nnn) :
      Effect i s { s with pc := zextAddr nnn + zextByte (s.readV 0#4) }
  | call (nnn : Addr) (is : i = .call nnn) : Effect i s { s with stack := s.pc :: s.stack, pc := zextAddr nnn }
  | ret (a : Word) (rest : List Word) (is : i = .ret) (top : s.stack = a :: rest) :
      Effect i s { s with stack := s.stack.tail, pc := a + 2#16 }
  | wait (x : Reg) (waits : i.waits = true) : Effect i s { s with waiting := some x }
  /-- The log alone (spec/41_address.md R93). -/
  | log (e : LogEvent) (logs : i.logs = true) : Effect i s { s with log := s.log ++ [e], pc := s.pc + 2#16 }
  /-- A draw request with its answer. -/
  | drawn (r : DrawRequest) (v : Vector Byte 16) (log : List LogEvent) (draws : i.draws = true)
      (kept : s.KeepsRegistersBut (i.registersWritten s.params) { s with v := v })
      (unlogged : i.logs = false → log = s.log) :
      Effect i s { s with v := v, inputIx := s.inputIx + 1, draws := s.draws ++ [r], log := log,
                          pc := s.pc + 2#16 }
  | undrawn (draws : i.draws = true) (unanswered : s.inputs.drawResp = none) :
      Effect i s { s with inputIx := s.inputIx + 1 }

section
variable {s t : State}

theorem execCall_effect (nnn : Addr) (h : execCall nnn s = .next t) : Effect (.call nnn) s t := by
  unfold execCall at h
  split at h <;> cases h
  · exact .call nnn rfl
  · exact .failure _ 0 [] s.v rfl (by simp) (.refl s _)

theorem execRet_effect (h : execRet s = .next t) : Effect .ret s t := by
  unfold execRet at h
  split at h <;> cases h
  next => exact .failure _ 0 [] s.v rfl (by simp) (.refl s _)
  next a rest top => exact .ret a rest rfl top

theorem execFontAddress_effect (x : Reg) (h : execFontAddress x s = .next t) : Effect (.fontAddress x) s t := by
  unfold execFontAddress at h
  split at h <;> cases h
  · exact .address _ rfl
  · exact .address s.i rfl

/-- A handler that skips on a condition has the effect of a skip. -/
theorem finish_skipWhen_effect {i : Instr} {c : Bool} (skips : i.skips = true) (n : Nat)
    (unread : i.readsInput = false → n = s.inputIx)
    (h : finish i (skipWhen c { s with inputIx := n }) = .next t) : Effect i s t := by
  rw [finish_eq, conclude_skipWhen] at h
  cases h
  exact .skip c n skips unread

/-- A key skip reads the input or, for a value of 16 or more, does not (spec/42_immediate.md R104, R105). -/
theorem finish_keySkip_effect {i : Instr} {p : Prop} [Decidable p] {c : Bool} (skips : i.skips = true)
    (reads : i.readsInput = true)
    (h : finish i (if p then skipWhen c s.nextInput else skipWhen false s) = .next t) : Effect i s t := by
  split at h
  · exact finish_skipWhen_effect skips (s.inputIx + 1) (by simp [reads]) h
  · exact finish_skipWhen_effect skips s.inputIx (fun _ => rfl) h

/-- A handler that stores to the instruction's addresses, all of them or those before the first that cannot be written. -/
theorem finish_storeAll_effect {i : Instr} {cs : List Host.Cell} (fails : i.canFail = true)
    (addresses : i.storeAddresses s = cs.map Prod.fst) (h : finish i (storeAll cs s) = .next t) : Effect i s t := by
  have listed {c : Host.Cell} (hc : c ∈ cs) : c.1 ∈ i.storeAddresses s := addresses ▸ List.mem_map_of_mem hc
  obtain ⟨ok, e⟩ | ⟨pre, c, post, rfl, ok, -, e⟩ := storeAll_cases s cs
  · rw [finish_eq, e, State.storeCells_frame] at h
    cases h
    exact .stores cs (fun d hd => ⟨ok d hd, listed hd⟩)
  · rw [finish_eq, e, State.storeCells_frame] at h
    cases h
    exact .failure _ c.1 pre s.v fails (fun d hd => ⟨ok d hd, listed (by simp [hd])⟩) (.refl s _)

theorem execRestoreRegisters_effect (x : Reg) (h : execRestoreRegisters x s = .next t) :
    Effect (.restoreRegisters x) s t := by
  have written {q} (hq : q ∈ s.restoreSlots x) := s.restoreSlots_mem_written s.params x hq
  unfold execRestoreRegisters at h
  obtain ⟨-, e⟩ | ⟨pre, q, post, split, -, -, e⟩ := loadAll_cases s (s.restoreSlots x)
  · rw [finish_eq, e, State.loadSlots_frame] at h
    cases h
    exact .registers _ s.inputIx (.loadSlots (fun q hq => written hq)) (fun _ => rfl)
  · rw [finish_eq, e, State.loadSlots_frame] at h
    cases h
    exact .failure _ q.1 [] _ rfl (by simp) (.loadSlots (fun d hd => written (by simp [split, hd])))

theorem execClearScreen_effect (h : execClearScreen s = .next t) : Effect .clearScreen s t := by
  unfold execClearScreen at h
  obtain ⟨unanswered, e⟩ | ⟨c, -, e⟩ := s.draw_cases .clear (fun _ t => t) <;> rw [finish_eq, e] at h <;> cases h
  · exact .undrawn rfl unanswered
  · exact .drawn .clear s.v s.log rfl (.refl s _) (fun _ => rfl)

theorem State.logTruncation_frame (s : State) (requested copied : Nat) :
    s.logTruncation requested copied = { s with log := (s.logTruncation requested copied).log } := by
  unfold State.logTruncation
  split <;> rfl

theorem execDrawSprite_effect (x y n : Reg) (h : execDrawSprite x y n s = .next t) :
    Effect (.drawSprite x y n) s t := by
  unfold execDrawSprite at h
  obtain ⟨unanswered, e⟩ | ⟨c, -, e⟩ := State.draw_cases s _ _ <;> rw [finish_eq, e] at h
  · cases h
    exact .undrawn rfl unanswered
  · rw [State.logTruncation_frame] at h
    cases h
    exact .drawn _ _ _ rfl (.setV (.refl s _) (.head _) _) nofun

/-- What an instruction can do, for every instruction. -/
theorem exec_effect {i : Instr} (h : exec i s = .next t) : Effect i s t := by
  cases i with
  | sys _ => cases h; exact .log _ rfl
  | jump nnn => cases h; exact .jump nnn rfl
  | jumpOffset nnn => cases h; exact .jumpOffset nnn rfl
  | call nnn => exact execCall_effect nnn h
  | ret => exact execRet_effect h
  | loadAddress _ | incrementAddressRegister _ => cases h; exact .address _ rfl
  | fontAddress x => exact execFontAddress_effect x h
  | skipEqualImmediate _ _ | skipNotEqualImmediate _ _ | skipIfEqual _ _ | skipIfNotEqual _ _ =>
    exact finish_skipWhen_effect rfl s.inputIx (fun _ => rfl) h
  | skipIfKeyPressed _ | skipIfKeyNotPressed _ => exact finish_keySkip_effect rfl rfl h
  | loadImmediate x _ | addImmediate x _ | loadDelayTimer x | move x _ | or x _ | and x _ | xor x _ =>
    cases h
    exact .registers _ s.inputIx (.setV (.refl s _) (.head _) _) (fun _ => rfl)
  | random x _ =>
    cases h
    exact .registers _ (s.inputIx + 1) (.setV (.refl s _) (.head _) _) nofun
  | add x _ | sub x _ | subn _ _ =>
    cases h
    exact .registers _ s.inputIx (.setV (.setV (.refl s _) (.head _) _) (.tail _ (.head _)) _) (fun _ => rfl)
  | shr x _ | shl x _ =>
    cases h
    exact .registers _ s.inputIx (.setV (.setV (.refl s _) (.tail _ (.head _)) _) (.head _) _) (fun _ => rfl)
  | setDelayTimer _ => cases h; exact .delayTimer _ rfl
  | setSoundTimer _ => cases h; exact .soundTimer _ rfl
  | waitForKey x => cases h; exact .wait x rfl
  | binaryCodedDecimal _ | saveRegisters _ => exact finish_storeAll_effect rfl rfl h
  | restoreRegisters x => exact execRestoreRegisters_effect x h
  | clearScreen => exact execClearScreen_effect h
  | drawSprite x y n => exact execDrawSprite_effect x y n h

end

/-! ### What instructions leave unchanged -/

/-- Settles O43: of the effects only those on registers, failures and draws write a register, each within the column. -/
theorem registersOutsideTheWriteColumnAreKept : Obligations.RegistersOutsideTheWriteColumnAreKept := by
  intro i s t h
  cases exec_effect h with
  | registers _ _ kept _ => exact kept
  | failure _ _ _ _ _ _ kept => exact kept
  | drawn _ _ _ _ kept _ => exact kept
  | _ => exact State.KeepsRegistersBut.refl s _

theorem readsInput_of_draws {i : Instr} (h : i.draws = true) : i.readsInput = true := by
  cases i <;> simp_all [Instr.draws, Instr.readsInput]

theorem draws_iff (i : Instr) : i.draws = true ↔ i = .clearScreen ∨ ∃ x y n, i = .drawSprite x y n := by
  cases i <;> simp [Instr.draws]

/-- Settles O45: each effect names the fields it writes, and the instructions that have it. -/
theorem specialStateIsKeptByOtherInstructions : Obligations.SpecialStateIsKeptByOtherInstructions := by
  intro i s t h
  cases exec_effect h with
  | registers _ _ _ unread => simpa using unread
  | skip _ _ _ unread => simpa using unread
  | address _ writes => simp [writes]
  | delayTimer _ writes => simp [writes, Timer.set]
  | soundTimer _ writes => simp [writes, Timer.set]
  | stores _ _ => simp
  | failure _ _ _ _ fails _ _ => simp [fails]
  | jump _ is | jumpOffset _ is => simp
  | call _ is => simp [is, Instr.writesStack]
  | ret _ _ is _ => simp [is, Instr.writesStack]
  | wait _ waits => simp [waits]
  | log _ logs => simp [logs]
  | drawn _ _ _ draws _ unlogged => simpa [draws, readsInput_of_draws draws] using unlogged
  | undrawn draws _ => simp [readsInput_of_draws draws]

theorem zextAddr_toNat (nnn : Addr) : (zextAddr nnn).toNat = nnn.toNat :=
  BitVec.toNat_setWidth_of_le (by decide)

theorem zextByte_toNat (b : Byte) : (zextByte b).toNat = b.toNat :=
  BitVec.toNat_setWidth_of_le (by decide)

/-- The target of jump-offset is the exact sum: 12 bits and 8 bits add within 16. -/
theorem zextAddr_add_zextByte_toNat (nnn : Addr) (b : Byte) :
    (zextAddr nnn + zextByte b).toNat = nnn.toNat + b.toNat := by
  rw [BitVec.toNat_add_of_lt] <;> rw [zextAddr_toNat, zextByte_toNat]
  omega

/-- Settles O46: each effect moves the pc in one of the ways, or holds it for a reason. -/
theorem pcMovesOnlyInTheseWays : Obligations.PcMovesOnlyInTheseWays := by
  intro i s t h
  cases exec_effect h with
  | skip taken _ skips _ =>
    cases taken
    · exact .inl rfl
    · exact .inr (.inl ⟨skips, rfl⟩)
  | jump nnn is => exact .inr (.inr (.inl ⟨nnn, is, zextAddr_toNat nnn⟩))
  | call nnn is => exact .inr (.inr (.inr (.inl ⟨nnn, is, zextAddr_toNat nnn, rfl⟩)))
  | jumpOffset nnn is =>
    exact .inr (.inr (.inr (.inr (.inl ⟨nnn, is, zextAddr_add_zextByte_toNat nnn _⟩))))
  | ret a rest is top => exact .inr (.inr (.inr (.inr (.inr (.inl ⟨is, a, by simp [top], rfl⟩)))))
  | failure _ _ _ _ fails _ _ => simp [fails]
  | wait _ waits => simp [waits]
  | undrawn draws unanswered => simp [unanswered, (draws_iff i).mp draws]
  | registers | address | delayTimer | soundTimer | stores | log | drawn => exact .inl rfl

/-! ### The data inputs -/

/-- An outcome with other values held on the data inputs. -/
def HandlerOutcome.withPorts (p : Option Ports) : HandlerOutcome → HandlerOutcome
  | .next s => .next (s.setPorts p)
  | .jumped s => .jumped (s.setPorts p)
  | .blocked s => .blocked (s.setPorts p)
  | .fail k a s => .fail k a (s.setPorts p)
  | .stuck s => .stuck (s.setPorts p)

theorem conclude_withPorts (w : Word) (o : HandlerOutcome) (p : Option Ports) :
    conclude w (o.withPorts p) = (conclude w o).setPorts p := by
  cases o <;> rfl

theorem finish_withPorts {i : Instr} {t : State} {o o' : HandlerOutcome} {p : Option Ports} (ho : o' = o.withPorts p)
    (h : finish i o = .next t) : finish i o' = .next (t.setPorts p) := by
  rw [finish_eq] at h
  cases h
  rw [ho, finish_eq, conclude_withPorts]

theorem skipWhen_setPorts (c : Bool) (s : State) (p : Option Ports) :
    skipWhen c (s.setPorts p) = (skipWhen c s).withPorts p := by
  cases c <;> rfl

theorem State.storeCells_setPorts (s : State) (cs : List Host.Cell) (p : Option Ports) :
    (s.setPorts p).storeCells cs = (s.storeCells cs).setPorts p := by
  induction cs generalizing s with
  | nil => rfl
  | cons c cs ih => exact ih (s.setByte c.1 c.2)

theorem storeAll_setPorts (s : State) (cs : List Host.Cell) (p : Option Ports) :
    storeAll cs (s.setPorts p) = (storeAll cs s).withPorts p := by
  obtain ⟨ok, e⟩ | ⟨pre, c, post, rfl, ok, bad, e⟩ := storeAll_cases s cs
  · rw [e, storeAll_of_storable _ cs ok, State.storeCells_setPorts]; rfl
  · rw [e, storeAll_of_not_storable _ pre post c ok bad, State.storeCells_setPorts]; rfl

theorem State.loadSlots_setPorts (s : State) (rs : List (Nat × Reg)) (p : Option Ports) :
    (s.setPorts p).loadSlots rs = (s.loadSlots rs).setPorts p := by
  induction rs generalizing s with
  | nil => rfl
  | cons r rs ih => exact ih (s.setV r.2 (s.memRead r.1))

theorem loadAll_setPorts (s : State) (rs : List (Nat × Reg)) (p : Option Ports) :
    loadAll rs (s.setPorts p) = (loadAll rs s).withPorts p := by
  obtain ⟨ok, e⟩ | ⟨pre, q, post, rfl, ok, above, e⟩ := loadAll_cases s rs
  · rw [e, loadAll_of_inRange _ rs ok, State.loadSlots_setPorts]; rfl
  · rw [e, loadAll_of_above _ pre post q ok above, State.loadSlots_setPorts]; rfl

/-- An instruction that reads no data input commutes with a change of what is held on them. -/
theorem exec_setPorts {i : Instr} {s t : State} (p : Option Ports) (unread : i.readsInput = false) (h : exec i s = .next t) :
    exec i (s.setPorts p) = .next (t.setPorts p) := by
  cases i with
  | random _ _ | skipIfKeyPressed _ | skipIfKeyNotPressed _ | clearScreen | drawSprite _ _ _ => cases unread
  | skipEqualImmediate _ _ | skipNotEqualImmediate _ _ | skipIfEqual _ _ | skipIfNotEqual _ _ =>
    exact finish_withPorts (skipWhen_setPorts _ s p) h
  | binaryCodedDecimal _ | saveRegisters _ => exact finish_withPorts (storeAll_setPorts s _ p) h
  | restoreRegisters _ => exact finish_withPorts (loadAll_setPorts s _ p) h
  | call nnn =>
    refine finish_withPorts ?_ h
    rw [apply_ite (HandlerOutcome.withPorts p)]
    rfl
  | ret =>
    refine finish_withPorts ?_ h
    cases e : s.stack <;> simp only [State.setPorts_stack, e] <;> rfl
  | fontAddress x =>
    refine finish_withPorts ?_ h
    simp only [HandlerOutcome.withPorts, apply_ite (State.setPorts · p)]
    rfl
  | _ => cases h; rfl

/-- Settles O47, by `exec_setPorts`: a state with other values held is `setPorts` of it. -/
theorem inputsReachOnlyTheInstructionsThatReadThem : Obligations.InputsReachOnlyTheInstructionsThatReadThem :=
  fun _ _ _ p unread h => exec_setPorts p unread h

/-! ### The state after reset -/

/-- An address that memory does not list holds what an unlisted one does. -/
theorem State.byteAt_of_mem_nil {s : State} (h : s.mem = []) (a : Nat) : s.byteAt a = unlistedByte s.params a := by
  rw [State.byteAt, h]
  rfl

/-- What an unlisted address of the font holds is its glyph's byte (spec/20_memory.md R47). -/
theorem unlistedByte_font (p : Params) (k : Fin 80) : unlistedByte p (p.fontBase.val + k.val) = p.fontGlyphs[k.val] := by
  simp [unlistedByte, inFont, Config.fontSize, fontByte, Vector.getD]

theorem State.fontIntact_reset : State.reset.FontIntact := fun k =>
  (State.byteAt_of_mem_nil rfl _).trans (unlistedByte_font _ k)

/-- Settles O54: nothing is listed, stacked or latched. -/
theorem resetMeetsTheInvariant : Obligations.ResetMeetsTheInvariant where
  memory := ⟨.nil, nofun⟩
  font := State.fontIntact_reset
  stack := Nat.zero_le _
  latches := nofun
  failure := nofun

/-- Settles O58: all but the font by the definition of the state. -/
theorem resetLeavesTheStatedValues : Obligations.ResetLeavesTheStatedValues :=
  ⟨rfl, rfl, rfl, rfl, rfl, rfl, State.fontIntact_reset⟩

/-! ### The status output -/

theorem ofBool_eq_ite (b : Bool) : BitVec.ofBool b = if b = true then 1#1 else 0#1 := by
  cases b <;> rfl

/-- Settles O59: the fields of an absent and of a present failure and wait, and the running bits. -/
theorem statusShowsTheFailure : Obligations.StatusShowsTheFailure := by
  intro s
  refine ⟨fun h => ?_, fun f h => ?_, fun h => ?_, fun x h => ?_, ofBool_eq_ite _, ofBool_eq_ite _⟩
  · simp [State.status, h]
  · have code (k : FailureKind) (hk : f.kind = k) : s.status.faultKind = k.code := by simp [State.status, h, hk]
    refine ⟨?_, ?_, ?_, ?_, code _, code _, code _, code _, code _⟩ <;> simp [State.status, h]
  · simp [State.status, h]
  · simp [State.status, h]

end Sys2Proof.Machine
end

section
/-! The statements of spec/20_memory.md: what an instruction, a turn of an agent and a step leave of memory
(`State.KeepsMemoryBut`), the failures an instruction can record, from these the invariant of the machine, and the
fetch. -/

namespace Sys2Proof.Machine

/-! ### Memory kept outside a set of addresses -/

/-- The bytes of `t` outside a set of addresses are those of `s`, under the same parameters, and in canonical form where
those of `s` are. -/
structure State.KeepsMemoryBut (s : State) (A : Set Nat) (t : State) : Prop where
  params : t.params = s.params
  wf : Memory.wf s.params s.mem → Memory.wf t.params t.mem
  bytes : ∀ a ∉ A, t.byteAt a = s.byteAt a

section
variable {s t u : State} {A B : Set Nat}

theorem State.KeepsMemoryBut.of_mem_eq (mem : t.mem = s.mem) (params : t.params = s.params) : s.KeepsMemoryBut A t where
  params := params
  wf := by rw [mem, params]; exact id
  bytes a _ := by rw [State.byteAt, State.byteAt, mem, params]

theorem State.KeepsMemoryBut.trans (h : s.KeepsMemoryBut A t) (h' : t.KeepsMemoryBut A u) : s.KeepsMemoryBut A u where
  params := h'.params.trans h.params
  wf := h'.wf ∘ h.wf
  bytes a ha := (h'.bytes a ha).trans (h.bytes a ha)

theorem State.KeepsMemoryBut.mono (h : s.KeepsMemoryBut A t) (hAB : A ⊆ B) : s.KeepsMemoryBut B t where
  params := h.params
  wf := h.wf
  bytes a ha := h.bytes a (fun hA => ha (hAB hA))

theorem State.KeepsMemoryBut.memRead (h : s.KeepsMemoryBut A t) {a : Nat} (ha : a ∉ A) : t.memRead a = s.memRead a := by
  rw [State.memRead, State.memRead, h.bytes a ha]

/-- Stores to addresses of a set, all of them in the program region (spec/20_memory.md R53), keep the rest of memory. -/
theorem State.KeepsMemoryBut.of_stores {cs : List Host.Cell} (mem : t.mem = (s.storeCells cs).mem)
    (params : t.params = s.params) (stored : ∀ c ∈ cs, storable c ∧ c.1 ∈ A) :
    s.KeepsMemoryBut (A ∩ Set.Ici Config.progStart) t := by
  have frame : (s.storeCells cs).params = s.params := by rw [State.storeCells_frame]
  have written {c} (hc : c ∈ cs) : c.1 ∈ A ∩ Set.Ici Config.progStart := ⟨(stored c hc).2, (stored c hc).1.1⟩
  have stores : s.KeepsMemoryBut (A ∩ Set.Ici Config.progStart) (s.storeCells cs) :=
    { params := frame
      wf := s.storeCells_wf cs (fun c hc => (stored c hc).1)
      bytes := fun a ha => s.storeCells_byteAt_other cs a (fun c hc => ne_of_mem_of_not_mem (written hc) ha) }
  exact stores.trans (.of_mem_eq mem (params.trans frame.symm))

/-- The font lies below the program region (spec/20_memory.md R47). -/
theorem font_address_lt (p : Params) (k : Fin 80) : p.fontBase.val + k.val < Config.progStart := by
  have := p.fontBase.isLt
  simp only [Config.progStart]
  omega

/-- The font stays intact where only the program region is written. -/
theorem State.KeepsMemoryBut.fontIntact (h : s.KeepsMemoryBut (Set.Ici Config.progStart) t) (font : s.FontIntact) :
    t.FontIntact := fun k => by
  rw [h.params, h.bytes _ (Set.notMem_Ici.mpr (font_address_lt _ k))]
  exact font k

end

/-! ### What instructions and turns do to memory -/

/-- An instruction writes its own store addresses in the program region, and nothing else of memory. -/
theorem exec_keepsMemory {i : Instr} {s t : State} (h : exec i s = .next t) :
    s.KeepsMemoryBut ({a | a ∈ i.storeAddresses s} ∩ Set.Ici Config.progStart) t := by
  cases exec_effect h with
  | stores _ addresses => exact .of_stores rfl rfl addresses
  | failure _ _ _ _ _ addresses _ => exact .of_stores rfl rfl addresses
  | _ => exact .of_mem_eq rfl rfl

/-- Settles O44, by `exec_keepsMemory`. -/
theorem bytesOutsideTheStoreAddressesAreKept : Obligations.BytesOutsideTheStoreAddressesAreKept :=
  fun _ _ _ h _ ha => (exec_keepsMemory h).memRead (fun hA => ha hA.1)

theorem engineStep_keepsMemory {s t : State} (h : engineStep s = .next t) :
    s.KeepsMemoryBut (Set.Ici Config.progStart) t := by
  obtain ⟨-, rfl⟩ | ⟨-, i, -, h⟩ | ⟨-, _, -, rfl⟩ := engineStep_cases h
  · exact .of_mem_eq rfl rfl
  · exact (exec_keepsMemory h).mono Set.inter_subset_right
  · exact .of_mem_eq rfl rfl

theorem State.completeWait_keepsMemory (s : State) (k : Reg) (A : Set Nat) : s.KeepsMemoryBut A (s.completeWait k) := by
  obtain ⟨-, e⟩ | ⟨x, -, e⟩ := s.completeWait_cases k <;> rw [e]
  · exact .of_mem_eq rfl rfl
  · exact .of_mem_eq rfl rfl

/-- A host's action is a reset or leaves memory alone. -/
theorem hostAct_keepsMemory {a : HostAction} {s t : State} (h : hostAct a s = .next t) (A : Set Nat) :
    (∃ l, a = .reset l ∧ t = s.launch l) ∨ s.KeepsMemoryBut A t := by
  cases a with
  | keyPress k => cases h; exact .inr (s.completeWait_keepsMemory k A)
  | delayStart | delayStop | soundStart | soundStop => cases h; exact .inr (.of_mem_eq rfl rfl)
  | reset l => cases h; exact .inl ⟨l, rfl, rfl⟩
  | shutDown => cases h

/-- A step is a reset or writes the program region alone (spec/20_memory.md R53). -/
theorem step_keepsMemory {s t : State} (h : step s = .next t) :
    (∃ l rest, s.turns = .host (.reset l) :: rest ∧ t = State.launch { s with turns := rest } l) ∨
      s.KeepsMemoryBut (Set.Ici Config.progStart) t := by
  obtain ⟨-, run⟩ | ⟨p, rest, u, -, run, rfl⟩ | ⟨rest, -, rfl⟩ | ⟨rest, -, rfl⟩ | ⟨a, rest, turns, act⟩ :=
    step_cases h
  · exact .inr (engineStep_keepsMemory run)
  · have granted : s.KeepsMemoryBut (Set.Ici Config.progStart) { s with turns := rest, ports := p } :=
      .of_mem_eq rfl rfl
    exact .inr ((granted.trans (engineStep_keepsMemory run)).trans (.of_mem_eq rfl rfl))
  · exact .inr (.of_mem_eq rfl rfl)
  · exact .inr (.of_mem_eq rfl rfl)
  · obtain ⟨l, rfl, rfl⟩ | kept := hostAct_keepsMemory act (Set.Ici Config.progStart)
    · exact .inl ⟨l, rest, turns, rfl⟩
    · have taken : s.KeepsMemoryBut (Set.Ici Config.progStart) { s with turns := rest } := .of_mem_eq rfl rfl
      exact .inr (taken.trans kept)

/-- Settles O56, by `step_keepsMemory`. -/
theorem lowMemoryChangesOnlyAtReset : Obligations.LowMemoryChangesOnlyAtReset := by
  intro s t h
  obtain ⟨l, rest, turns, rfl⟩ | kept := step_keepsMemory h
  · exact ⟨rfl, fun noReset => absurd turns (noReset l rest)⟩
  · exact ⟨kept.params, fun _ a low => kept.memRead (Set.notMem_Ici.mpr low)⟩

/-! ### The failures an instruction can record -/

/-- The failure latch holds a failure a step can record, or nothing. -/
def State.FaultPossible (s : State) : Prop := ∀ f, s.fault = some f → f.Possible

theorem State.FaultPossible.latchFailure {k : FailureKind} {a : Nat}
    (possible : ∀ pc w, FailureRecord.Possible ⟨k, pc, w, BitVec.ofNat 17 a⟩) {s : State} {w : Word} :
    (s.latchFailure k w a).FaultPossible := by
  intro f hf
  cases hf
  exact possible s.pc w

/-- An address up to the highest a handler computes, 0xFFFF + 2, is recorded exactly. -/
theorem faultAddr_toNat {a : Nat} (ha : a ≤ 0x10001) : (BitVec.ofNat 17 a).toNat = a := by
  rw [BitVec.toNat_ofNat]
  omega

theorem FailureRecord.possible_above {a : Nat} (above : Config.memTop < a) (ha : a ≤ 0x10001) (pc w : Word) :
    FailureRecord.Possible ⟨.memoryBoundsExceeded, pc, w, BitVec.ofNat 17 a⟩ := by
  simp only [FailureRecord.Possible, faultAddr_toNat ha]
  exact ⟨above, ha⟩

/-- The failure of a store that cannot be done, below the program region or above the top (R53). -/
theorem FailureRecord.possible_store {c : Host.Cell} (bad : ¬ storable c) (hc : c.1 ≤ 0x10001) (pc w : Word) :
    FailureRecord.Possible ⟨if c.1 < Config.progStart then .writeProtected else .memoryBoundsExceeded, pc, w,
      BitVec.ofNat 17 c.1⟩ := by
  split
  next low => simpa only [FailureRecord.Possible, faultAddr_toNat hc] using low
  next high =>
    exact possible_above (Nat.not_le.mp fun top => bad ⟨Nat.not_lt.mp high, top⟩) hc pc w

/-- Every address of binary-coded-decimal is at most I + 2. -/
theorem State.bcdCells_le {s : State} {b : Byte} {c : Host.Cell} (hc : c ∈ s.bcdCells b) : c.1 ≤ 0x10001 := by
  have := s.i.isLt
  simp only [State.bcdCells, List.mem_cons, List.not_mem_nil, or_false] at hc
  obtain rfl | rfl | rfl := hc <;> simp only [State.effAddr] <;> omega

/-- The first address of I to I + x that a handler cannot use is I itself, or it follows one in the array. -/
theorem State.regsUpTo_first_le {β : Type} {s : State} {x : Reg} {g : Nat → β} {pre post : List (Nat × β)} {q : Nat × β}
    (split : (regsUpTo x).map (fun k => (s.effAddr k, g k)) = pre ++ q :: post)
    (usable : ∀ p ∈ pre, p.1 ≤ Config.memTop) : q.1 ≤ 0x10001 := by
  have hi := s.i.isLt
  cases pre with
  | nil =>
    rw [regsUpTo, List.range_succ_eq_map, List.map_cons] at split
    cases split
    simp only [State.effAddr]
    omega
  | cons p pre =>
    have hp := usable p (by simp)
    have hq : q ∈ (regsUpTo x).map (fun k => (s.effAddr k, g k)) := by simp [split]
    obtain ⟨k, hk, rfl⟩ := List.mem_map.mp hq
    have hk := List.mem_range.mp hk
    rw [regsUpTo, List.range_succ_eq_map, List.map_cons] at split
    obtain ⟨rfl, -⟩ := List.cons.inj split
    simp only [State.effAddr, Config.memTop] at hp ⊢
    have := x.isLt
    omega

section
variable {s t : State}

/-- What a call can do (spec/41_address.md R95). -/
theorem execCall_cases {nnn : Addr} (h : execCall nnn s = .next t) :
    (s.depth < Config.stackDepth ∧ t = (s.push s.pc).setPc (zextAddr nnn)) ∨
    (Config.stackDepth ≤ s.depth ∧ t = s.latchFailure .stackOverflow (encode (.call nnn)) 0) := by
  unfold execCall at h
  split at h <;> cases h
  next room => exact .inl ⟨room, rfl⟩
  next full => exact .inr ⟨Nat.not_lt.mp full, rfl⟩

/-- What a return can do (spec/41_address.md R96). -/
theorem execRet_cases (h : execRet s = .next t) :
    (∃ a rest, s.stack = a :: rest ∧ t = (s.dropTop.setPc a).advance) ∨
    (s.stack = [] ∧ t = s.latchFailure .stackUnderflow (encode .ret) 0) := by
  unfold execRet at h
  split at h <;> cases h
  next empty => exact .inr ⟨empty, rfl⟩
  next a rest top => exact .inl ⟨a, rest, top, rfl⟩

/-- A handler that stores records a possible failure when the first address it cannot write is in reach. -/
theorem finish_storeAll_faultPossible {i : Instr} {cs : List Host.Cell} (hs : s.FaultPossible)
    (first : ∀ pre c post, cs = pre ++ c :: post → (∀ d ∈ pre, storable d) → c.1 ≤ 0x10001)
    (h : finish i (storeAll cs s) = .next t) : t.FaultPossible := by
  obtain ⟨-, e⟩ | ⟨pre, c, post, split, ok, bad, e⟩ := storeAll_cases s cs
  · rw [finish_eq, e, State.storeCells_frame] at h
    cases h
    exact hs
  · rw [finish_eq, e] at h
    cases h
    exact .latchFailure (FailureRecord.possible_store bad (first pre c post split ok))

theorem execRestoreRegisters_faultPossible {x : Reg} (hs : s.FaultPossible) (h : execRestoreRegisters x s = .next t) :
    t.FaultPossible := by
  unfold execRestoreRegisters at h
  obtain ⟨-, e⟩ | ⟨pre, q, post, split, ok, above, e⟩ := loadAll_cases s (s.restoreSlots x)
  · rw [finish_eq, e, State.loadSlots_frame] at h
    cases h
    exact hs
  · rw [finish_eq, e] at h
    cases h
    exact .latchFailure (FailureRecord.possible_above above (State.regsUpTo_first_le split ok))

/-- What an instruction leaves in the failure latch is what was there or a failure a step can record
(spec/60_exceptions.md R132). -/
theorem exec_faultPossible {i : Instr} (hs : s.FaultPossible) (h : exec i s = .next t) : t.FaultPossible := by
  cases fails : i.canFail with
  | false =>
    obtain ⟨-, -, -, -, fault, -⟩ := specialStateIsKeptByOtherInstructions i s t h
    unfold State.FaultPossible
    rwa [fault fails]
  | true =>
    cases i with
    | call nnn =>
      obtain ⟨-, rfl⟩ | ⟨-, rfl⟩ := execCall_cases h
      · exact hs
      · exact .latchFailure (by intros; rfl)
    | ret =>
      obtain ⟨_, _, -, rfl⟩ | ⟨-, rfl⟩ := execRet_cases h
      · exact hs
      · exact .latchFailure (by intros; rfl)
    | binaryCodedDecimal x =>
      exact finish_storeAll_faultPossible hs (fun _ _ _ split _ => State.bcdCells_le (by rw [split]; simp)) h
    | saveRegisters x =>
      exact finish_storeAll_faultPossible hs
        (fun _ _ _ split ok => State.regsUpTo_first_le split (fun d hd => (ok d hd).2)) h
    | restoreRegisters x => exact execRestoreRegisters_faultPossible hs h
    | _ => cases fails

/-! ### The invariant -/

/-- "Depth never exceeds capacity" (spec/10_state.md R30): only a call pushes, and only below capacity. -/
theorem exec_depth_le {i : Instr} (hs : s.depth ≤ Config.stackDepth) (h : exec i s = .next t) :
    t.depth ≤ Config.stackDepth := by
  cases writes : i.writesStack with
  | false =>
    obtain ⟨-, stack, -⟩ := specialStateIsKeptByOtherInstructions i s t h
    rwa [State.depth, stack writes]
  | true =>
    cases i with
    | call nnn =>
      obtain ⟨room, rfl⟩ | ⟨-, rfl⟩ := execCall_cases h
      · exact room
      · exact hs
    | ret =>
      obtain ⟨a, rest, top, rfl⟩ | ⟨-, rfl⟩ := execRet_cases h
      · exact s.stack.tail_sublist.length_le.trans hs
      · exact hs
    | _ => cases writes

/-- An instruction run by an engine that is neither failed nor waiting leaves it at most one of the two. -/
theorem exec_latches {i : Instr} (free : s.halted = false) (h : exec i s = .next t) :
    ¬ (t.fault.isSome = true ∧ t.waiting.isSome = true) := by
  obtain ⟨fault, waiting⟩ := (halted_eq_false s).mp free
  cases exec_effect h with
  | failure => simp [waiting]
  | _ => simp [fault]

theorem exec_inv {i : Instr} (hs : s.Inv) (free : s.halted = false) (h : exec i s = .next t) : t.Inv where
  memory := (exec_keepsMemory h).wf hs.memory
  font := ((exec_keepsMemory h).mono Set.inter_subset_right).fontIntact hs.font
  stack := exec_depth_le hs.stack h
  latches := exec_latches free h
  failure := exec_faultPossible hs.failure h

/-- The invariant is about memory, the parameters, the stack and the two latches. -/
theorem State.Inv.congr (hs : s.Inv) (mem : t.mem = s.mem) (params : t.params = s.params) (stack : t.stack = s.stack)
    (fault : t.fault = s.fault) (waiting : t.waiting = s.waiting) : t.Inv where
  memory := by rw [mem, params]; exact hs.memory
  font := State.KeepsMemoryBut.fontIntact (.of_mem_eq mem params) hs.font
  stack := by rw [State.depth, stack]; exact hs.stack
  latches := by rw [fault, waiting]; exact hs.latches
  failure := by rw [fault]; exact hs.failure

theorem engineStep_inv (hs : s.Inv) (h : engineStep s = .next t) : t.Inv := by
  obtain ⟨-, rfl⟩ | ⟨free, i, -, h⟩ | ⟨free, _, -, rfl⟩ := engineStep_cases h
  · exact hs
  · exact exec_inv hs free h
  · exact
      { memory := hs.memory
        font := hs.font
        stack := hs.stack
        latches := by simp [State.decodeFailure, ((halted_eq_false s).mp free).2]
        failure := State.FaultPossible.latchFailure (by intros; rfl) }

theorem State.completeWait_inv (hs : s.Inv) (k : Reg) : (s.completeWait k).Inv := by
  obtain ⟨-, e⟩ | ⟨x, -, e⟩ := s.completeWait_cases k <;> rw [e]
  · exact hs
  · exact { memory := hs.memory, font := hs.font, stack := hs.stack, latches := by simp, failure := hs.failure }

/-- An empty memory with two launch inputs loaded is canonical. -/
theorem launchMemory_wf (p : Params) (l : Launch) : Memory.wf p (launchMemory p l) :=
  loadCells_wf p _ _ _ _ le_rfl (loadCells_wf p _ _ _ _ (by decide) ⟨.nil, nofun⟩)

/-- A launch input does not reach the font (spec/70_reset_and_hazards.md R157). -/
theorem State.launch_fontIntact (s : State) (l : Launch) : (s.launch l).FontIntact := by
  intro k
  have inside : inFont s.params (s.params.fontBase.val + k.val) = true := by simp [inFont, Config.fontSize]
  calc (s.launch l).byteAt (s.params.fontBase.val + k.val)
      = Memory.get (unlistedByte s.params (s.params.fontBase.val + k.val)) (s.params.fontBase.val + k.val) [] :=
        (loadCells_font _ _ _ _ _ _ inside).trans (loadCells_font _ _ _ _ _ _ inside)
    _ = s.params.fontGlyphs[k.val] := unlistedByte_font s.params k

/-- A reset establishes the invariant from every state. -/
theorem State.launch_inv (s : State) (l : Launch) : (s.launch l).Inv where
  memory := launchMemory_wf s.params l
  font := s.launch_fontIntact l
  stack := Nat.zero_le _
  latches := nofun
  failure := nofun

theorem hostAct_inv {a : HostAction} (hs : s.Inv) (h : hostAct a s = .next t) : t.Inv := by
  cases a with
  | keyPress k => cases h; exact State.completeWait_inv hs k
  | delayStart | delayStop | soundStart | soundStop => cases h; exact hs.congr rfl rfl rfl rfl rfl
  | reset l => cases h; exact s.launch_inv l
  | shutDown => cases h

end

/-- Settles O55, agent by agent: the engine by `engineStep_inv`, the host by `hostAct_inv`; a tick touches nothing the
invariant is about. -/
theorem everyStepKeepsTheInvariant : Obligations.EveryStepKeepsTheInvariant := by
  intro s t hs h
  obtain ⟨-, run⟩ | ⟨p, rest, u, -, run, rfl⟩ | ⟨rest, -, rfl⟩ | ⟨rest, -, rfl⟩ | ⟨a, rest, -, act⟩ := step_cases h
  · exact engineStep_inv hs run
  · have granted : State.Inv { s with turns := rest, ports := p } := hs.congr rfl rfl rfl rfl rfl
    exact (engineStep_inv granted run).congr rfl rfl rfl rfl rfl
  · exact hs.congr rfl rfl rfl rfl rfl
  · exact hs.congr rfl rfl rfl rfl rfl
  · have taken : State.Inv { s with turns := rest } := hs.congr rfl rfl rfl rfl rfl
    exact hostAct_inv taken act

/-! ### The fetch -/

theorem State.fetchWord_toNat (s : State) :
    s.fetchWord.toNat = (s.memRead s.pc.toNat).toNat * 256 + (s.memRead (s.pc.toNat + 1)).toNat :=
  wordOfBytes_toNat _ _

/-- No byte exists at or after a pc above the top, so the word there is 0 (spec/30_encoding.md R92). -/
theorem State.fetchWord_above {s : State} (above : Config.memTop < s.pc.toNat) : s.fetchWord = 0#16 := by
  rw [State.fetchWord, s.memRead_above _ above, s.memRead_above _ (Nat.lt_succ_of_lt above)]
  rfl

/-- Settles O5: the bytes of `wordOfBytes`, and `fetchWord_above`, whose word decodes by computation. -/
theorem fetchIsBigEndianAndNeverFails : Obligations.FetchIsBigEndianAndNeverFails := by
  intro s
  refine ⟨s.fetchWord_toNat, fun above => ?_⟩
  rw [State.fetchWord_above above]
  rfl

/-! ### Stored registers are fetched -/

/-- The store addresses of save-registers are distinct. -/
theorem State.saveCells_nodup (s : State) (x : Reg) : ((s.saveCells x).map Prod.fst).Nodup := by
  rw [State.saveCells, List.map_map]
  exact List.nodup_range.map fun a b (h : s.effAddr a = s.effAddr b) => Nat.add_left_cancel h

/-- Register r up to x is stored at I + r. -/
theorem State.mem_saveCells (s : State) {r x : Reg} (hr : r.toNat ≤ x.toNat) :
    (s.effAddr r.toNat, s.readV r) ∈ s.saveCells x := by
  refine List.mem_map.mpr ⟨r.toNat, List.mem_range.mpr (Nat.lt_succ_of_le hr), ?_⟩
  rw [reg_ofNat_toNat]

/-- With all its targets in the program region, save-registers stores every cell (spec/43_fx_timer_memory.md R113). -/
theorem execSaveRegisters_of_inRegion {s : State} {x : Reg} (low : Config.progStart ≤ s.i.toNat)
    (high : s.i.toNat + x.toNat ≤ Config.memTop) :
    execSaveRegisters x s = .next (s.storeCells (s.saveCells x)).advance := by
  have all : ∀ c ∈ s.saveCells x, storable c := by
    intro c hc
    obtain ⟨k, hk, rfl⟩ := List.mem_map.mp hc
    have hk := List.mem_range.mp hk
    exact ⟨low.trans (Nat.le_add_right _ _), (Nat.add_le_add_left (Nat.le_of_lt_succ hk) _).trans high⟩
  rw [execSaveRegisters, storeAll_of_storable s _ all, finish_eq, conclude_next]

/-- Settles O57: the byte is read back at its address, and the fetch reads that address first or second. -/
theorem storedBytesAreFetched : Obligations.StoredBytesAreFetched := by
  intro x s low high
  refine ⟨_, execSaveRegisters_of_inRegion low high, fun r u hr mem params => ?_⟩
  have stored : u.memRead (s.i.toNat + r.toNat) = s.readV r := by
    have top : s.i.toNat + r.toNat ≤ Config.memTop := (Nat.add_le_add_left hr _).trans high
    rw [State.KeepsMemoryBut.memRead (A := ∅) (.of_mem_eq mem params) (Set.notMem_empty _), State.advance_memRead,
      State.memRead, if_pos top]
    exact s.storeCells_byteAt_mem _ _ (s.mem_saveCells hr) (s.saveCells_nodup x)
  have := (u.memRead (u.pc.toNat + 1)).isLt
  refine ⟨fun pc => ?_, fun pc => ?_⟩ <;> rw [State.fetchWord_toNat, ← stored, ← pc] <;> omega

end Sys2Proof.Machine
end

section
/-! The decoder and the encoder (spec/30_encoding.md): each well-formed instruction is read back from its word; and, said
once in `decode_answers`, a word decodes to an instruction that encodes to it or is one of R81's table. From these the
statements on encoding follow. The statements on the engine's step are below them. -/

namespace Sys2Proof

/-! ### Words other than the two void words -/

theorem ne_clearScreen_of_op {w : Word} (op : fieldOp w ≠ 0x0#4) : w ≠ 0x00E0#16 := by
  rintro rfl
  exact op (by decide)

theorem ne_ret_of_op {w : Word} (op : fieldOp w ≠ 0x0#4) : w ≠ 0x00EE#16 := by
  rintro rfl
  exact op (by decide)

theorem encodeA_inj {op : BitVec 4} {a b : Addr} : encodeA op a = encodeA op b ↔ a = b :=
  ⟨fun h => by rw [← fieldNNN_encodeA op a, h, fieldNNN_encodeA], congrArg _⟩

/-- The operands R79 takes from `sys` are those of the two void words. -/
theorem sys_wf_iff {nnn : Addr} :
    (Instr.sys nnn).wf = true ↔ encode (.sys nnn) ≠ 0x00E0#16 ∧ encode (.sys nnn) ≠ 0x00EE#16 := by
  have clear : encode (.sys nnn) = 0x00E0#16 ↔ nnn = 0x0E0#12 := encodeA_inj (op := 0x0#4) (b := 0x0E0#12)
  have ret : encode (.sys nnn) = 0x00EE#16 ↔ nnn = 0x0EE#12 := encodeA_inj (op := 0x0#4) (b := 0x0EE#12)
  simp only [Instr.wf, Bool.and_eq_true, bne_iff_ne, ne_eq, clear, ret]

/-! ### Decoding an encoded word -/

/-- Settles O1: the fields of an encoded word select its instruction's arm and give its operands; families 8, E and F
have an arm per sub-opcode, `sys` the two void words before its own. -/
theorem decodeOfEncodeIsTheInstruction : Obligations.DecodeOfEncodeIsTheInstruction := by
  intro i wf
  cases i with
  | clearScreen | ret => rfl
  | sys nnn =>
    obtain ⟨clear, ret⟩ := sys_wf_iff.mp wf
    rw [decode, if_neg clear, if_neg ret]
    simp [encode]
  | skipIfKeyPressed _ | skipIfKeyNotPressed _ =>
    simp [encode, decode, decodeE, ne_clearScreen_of_op, ne_ret_of_op]
  | loadDelayTimer _ | waitForKey _ | setDelayTimer _ | setSoundTimer _ | incrementAddressRegister _ | fontAddress _
  | binaryCodedDecimal _ | saveRegisters _ | restoreRegisters _ =>
    simp [encode, decode, decodeF, ne_clearScreen_of_op, ne_ret_of_op]
  | move _ _ | or _ _ | and _ _ | xor _ _ | add _ _ | sub _ _ | shr _ _ | subn _ _ | shl _ _ =>
    simp [encode, decode, decode8, ne_clearScreen_of_op, ne_ret_of_op]
  | _ => simp [encode, decode, ne_clearScreen_of_op, ne_ret_of_op]

/-- The class of an instruction's word is the instruction's (R70, R71). -/
theorem classOf_encode {i : Instr} (wf : i.wf = true) : classOf (encode i) = i.format := by
  cases i with
  | clearScreen | ret => rfl
  | sys nnn =>
    rw [classOf, if_neg (not_or.mpr (sys_wf_iff.mp wf))]
    simp [encode, Instr.format]
  | _ => simp [encode, classOf, Instr.format, ne_clearScreen_of_op, ne_ret_of_op]

/-! ### The table of illegal words -/

/-- R81's table, in the fields of the word. -/
def IllegalWord (w : Word) : Prop :=
  ((fieldOp w).toNat = 5 ∧ (fieldN w).toNat ≠ 0) ∨
  ((fieldOp w).toNat = 9 ∧ (fieldN w).toNat ≠ 0) ∨
  ((fieldOp w).toNat = 8 ∧ 8 ≤ (fieldN w).toNat ∧ (fieldN w).toNat ≠ 14) ∨
  ((fieldOp w).toNat = 14 ∧ (fieldKK w).toNat ∉ [0x9E, 0xA1]) ∨
  ((fieldOp w).toNat = 15 ∧ (fieldKK w).toNat ∉ [0x07, 0x0A, 0x15, 0x18, 0x1E, 0x29, 0x33, 0x55, 0x65])

/-- No instruction's word is in the table. -/
theorem not_illegalWord_encode (i : Instr) : ¬ IllegalWord (encode i) := by
  unfold IllegalWord
  cases i with
  | clearScreen | ret => decide
  | _ => simp [encode]

/-! ### A word taken apart by the decoder -/

section
variable {w : Word} {op : BitVec 4}

theorem encodeA_of_op (h : (fieldOp w).toNat = op.toNat) : encodeA op (fieldNNN w) = w := by
  rw [← BitVec.eq_of_toNat_eq h, encodeA_fields]

theorem encodeI_of_op (h : (fieldOp w).toNat = op.toNat) : encodeI op (fieldX w) (fieldKK w) = w := by
  rw [← BitVec.eq_of_toNat_eq h, encodeI_fields]

theorem encodeI_of_op_kk {kk : Byte} (h : (fieldOp w).toNat = op.toNat) (hk : (fieldKK w).toNat = kk.toNat) :
    encodeI op (fieldX w) kk = w := by
  rw [← BitVec.eq_of_toNat_eq hk, encodeI_of_op h]

theorem encodeR_of_op (h : (fieldOp w).toNat = op.toNat) : encodeR op (fieldX w) (fieldY w) (fieldN w) = w := by
  rw [← BitVec.eq_of_toNat_eq h, encodeR_fields]

theorem encodeR_of_op_n {n : Reg} (h : (fieldOp w).toNat = op.toNat) (hn : (fieldN w).toNat = n.toNat) :
    encodeR op (fieldX w) (fieldY w) n = w := by
  rw [← BitVec.eq_of_toNat_eq hn, encodeR_of_op h]

end

/-- What the decoder can answer on a word: a well-formed instruction with that word, or a rejection of a word of the
table. -/
inductive DecodeAnswers (w : Word) : DecodeResult → Prop
  | ok (i : Instr) (wf : i.wf = true) (word : encode i = w) : DecodeAnswers w (.ok i)
  | reject (why : DecodeReject) (illegal : IllegalWord w) : DecodeAnswers w (.reject why)

section
variable {w : Word}

/-- Family 8: an arm for each of the nine low nibbles of R75, and one for the rest. -/
theorem decode8_answers (op : (fieldOp w).toNat = 8) : DecodeAnswers w (decode8 w) := by
  unfold decode8
  split
  iterate 9 next n => exact .ok _ rfl (encodeR_of_op_n op n)
  simp only [imp_false] at *
  exact .reject _ (.inr (.inr (.inl ⟨op, by omega, by omega⟩)))

/-- Family E: an arm for each of the two low bytes of R74, and one for the rest. -/
theorem decodeE_answers (op : (fieldOp w).toNat = 14) : DecodeAnswers w (decodeE w) := by
  unfold decodeE
  split
  iterate 2 next kk => exact .ok _ rfl (encodeI_of_op_kk op kk)
  simp only [imp_false] at *
  exact .reject _ (.inr (.inr (.inr (.inl ⟨op, by simp [*]⟩))))

/-- Family F: an arm for each of the nine low bytes of R74, and one for the rest. -/
theorem decodeF_answers (op : (fieldOp w).toNat = 15) : DecodeAnswers w (decodeF w) := by
  unfold decodeF
  split
  iterate 9 next kk => exact .ok _ rfl (encodeI_of_op_kk op kk)
  simp only [imp_false] at *
  exact .reject _ (.inr (.inr (.inr (.inr ⟨op, by simp [*]⟩))))

/-- A family with one low nibble, 0 (R82). -/
theorem ite_fieldN_answers {i : Instr} {why : DecodeReject} (ok : fieldN w = 0x0#4 → DecodeAnswers w (.ok i))
    (illegal : (fieldN w).toNat ≠ 0 → IllegalWord w) :
    DecodeAnswers w (if fieldN w = 0x0#4 then .ok i else .reject why) := by
  split
  next n => exact ok n
  next n => exact .reject why (illegal fun h => n (BitVec.eq_of_toNat_eq h))

/-- What the decoder can answer, top nibble by top nibble. -/
theorem decode_answers (w : Word) : DecodeAnswers w (decode w) := by
  unfold decode
  split
  next clear => exact .ok _ rfl clear.symm
  split
  next ret => exact .ok _ rfl ret.symm
  next clear ret =>
  split
  next op =>
    have word : encode (.sys (fieldNNN w)) = w := encodeA_of_op op
    exact .ok _ (sys_wf_iff.mpr (word.symm ▸ ⟨clear, ret⟩)) word
  iterate 2 next op => exact .ok _ rfl (encodeA_of_op op)
  iterate 2 next op => exact .ok _ rfl (encodeI_of_op op)
  next op => exact ite_fieldN_answers (fun n => .ok _ rfl (encodeR_of_op_n op (congrArg _ n))) (fun n => .inl ⟨op, n⟩)
  iterate 2 next op => exact .ok _ rfl (encodeI_of_op op)
  next op => exact decode8_answers op
  next op =>
    exact ite_fieldN_answers (fun n => .ok _ rfl (encodeR_of_op_n op (congrArg _ n)))
      (fun n => .inr (.inl ⟨op, n⟩))
  iterate 2 next op => exact .ok _ rfl (encodeA_of_op op)
  next op => exact .ok _ rfl (encodeI_of_op op)
  next op => exact .ok _ rfl (encodeR_of_op op)
  next op => exact decodeE_answers op
  next =>
    have := (fieldOp w).isLt
    simp only [imp_false] at *
    exact decodeF_answers (by omega)

end

/-- Settles O2, by `decode_answers`. -/
theorem encodeOfDecodeIsTheWord : Obligations.EncodeOfDecodeIsTheWord := by
  intro w i h
  obtain ⟨_, wf, word⟩ : DecodeAnswers w (.ok i) := h ▸ decode_answers w
  exact ⟨wf, word, word ▸ classOf_encode wf⟩

/-- The decoder rejects the words of the table and no others. -/
theorem decode_rejects_iff (w : Word) : (∃ why, decode w = .reject why) ↔ IllegalWord w := by
  have answers := decode_answers w
  generalize decode w = r at answers ⊢
  cases answers with
  | ok i _ word => simp [← word, not_illegalWord_encode]
  | reject why illegal => simp [illegal]

/-- Settles O3, by `decode_rejects_iff`, the table being written in numbers. -/
theorem illegalWordsAreThoseOfTheTable : Obligations.IllegalWordsAreThoseOfTheTable := by
  intro w
  have op : w.toNat / 4096 % 16 = w.toNat / 4096 := by omega
  rw [decode_rejects_iff, IllegalWord, fieldOp_toNat, fieldN_toNat, fieldKK_toNat, op]

/-- Settles O4, by computation. -/
theorem wordsOfTheSpecDecode : Obligations.WordsOfTheSpecDecode := by
  unfold Obligations.WordsOfTheSpecDecode
  decide

end Sys2Proof

namespace Sys2Proof.Machine

section
variable {s : State}

/-! ### The engine's turn, case by case (spec/30_encoding.md R88) -/

theorem halted_eq_true : s.halted = true ↔ s.fault.isSome = true ∨ s.waiting.isSome = true := by
  simp [State.halted]

theorem engineStep_of_halted (h : s.halted = true) : engineStep s = .next s := by
  rw [engineStep, if_pos h]

theorem engineStep_of_ok {i : Instr} (free : s.halted = false) (h : decode s.fetchWord = .ok i) :
    engineStep s = exec i s := by
  simp [engineStep, free, h]

theorem engineStep_of_reject {why : DecodeReject} (free : s.halted = false) (h : decode s.fetchWord = .reject why) :
    engineStep s = .next s.decodeFailure := by
  simp [engineStep, free, h]

/-! ### The engine's turn as a step (spec/60_exceptions.md R149) -/

theorem step_of_no_turns (h : s.turns = []) : step s = engineStep s := by
  rw [step, h]

theorem step_of_granted {p : Option Ports} {rest : List Turn} {t : State} (h : s.turns = .engine p :: rest)
    (run : engineStep { s with turns := rest, ports := p } = .next t) : step s = .next (t.setPorts none) := by
  rw [step, h]
  exact congrArg releasePorts run

end

/-- Settles O6: the engine is free and the word decodes, and a granted turn changes neither. -/
theorem stepRunsTheDecodedInstruction : Obligations.StepRunsTheDecodedInstruction := by
  intro s i fault waiting h
  have free := (halted_eq_false s).mpr ⟨fault, waiting⟩
  refine ⟨fun turns => (step_of_no_turns turns).trans (engineStep_of_ok free h), fun p rest turns => ?_⟩
  obtain ⟨t, ht⟩ := exec_answers i { s with turns := rest, ports := p }
  have run := engineStep_of_ok (s := { s with turns := rest, ports := p }) free h
  exact ⟨t, ht, step_of_granted turns (run.trans ht)⟩

/-- Settles O8, by `engineStep_of_reject`. -/
theorem illegalWordLatchesDecodeFailure : Obligations.IllegalWordLatchesDecodeFailure := by
  intro s why fault waiting h
  have free := (halted_eq_false s).mpr ⟨fault, waiting⟩
  exact ⟨fun turns => (step_of_no_turns turns).trans (engineStep_of_reject free h),
    fun p rest turns => step_of_granted turns (engineStep_of_reject free h)⟩

/-- Settles O9, by `engineStep_of_halted`. -/
theorem haltedEngineTakesNoStep : Obligations.HaltedEngineTakesNoStep := by
  intro s h
  have halted := halted_eq_true.mpr h
  exact ⟨fun turns => (step_of_no_turns turns).trans (engineStep_of_halted halted),
    fun p rest turns => step_of_granted turns (engineStep_of_halted halted)⟩

/-! ### A placed word -/

theorem State.withFetchWord_toNat (s : State) (w : Word) : s.withFetchWord 16 w.toNat = s.placeWord w := by
  rw [State.withFetchWord, Nat.mod_eq_of_lt w.isLt, BitVec.ofNat_toNat, BitVec.setWidth_eq]

/-- Settles O7: a placed word is the word fetched, by an engine that is free to take the next turn. -/
theorem placedWordIsFetchedAndRun : Obligations.PlacedWordIsFetchedAndRun := by
  intro s w i h
  rw [State.withFetchWord_toNat]
  have free : (s.placeWord w).halted = false := rfl
  have turns : (s.placeWord w).turns = [] := rfl
  have fetched : decode (s.placeWord w).fetchWord = .ok i := by rw [State.fetchWord_placeWord, h]
  rw [step_of_no_turns turns, engineStep_of_ok free fetched]

end Sys2Proof.Machine
end

section
/-! The statements of spec/41_address.md: one equation per case of an instruction of the address family, then what each
statement says of the state it answers. The words are decoded by `decodeOfEncodeIsTheInstruction`. -/

namespace Sys2Proof.Machine

section
variable {s : State}

/-! ### The meanings, case by case -/

theorem execSys_eq (nnn : Addr) : execSys nnn s = .next (s.emitLog (.illegalSystemCall s.pc nnn)).advance := by
  rw [execSys, finish_eq, conclude_next]

theorem execJump_eq (nnn : Addr) : execJump nnn s = .next (s.setPc (zextAddr nnn)) := by
  rw [execJump, finish_eq, conclude_jumped]

theorem execLoadAddress_eq (nnn : Addr) : execLoadAddress nnn s = .next (s.setI (zextAddr nnn)).advance := by
  rw [execLoadAddress, finish_eq, conclude_next]

theorem execJumpOffset_eq (nnn : Addr) :
    execJumpOffset nnn s = .next (s.setPc (zextAddr nnn + zextByte (s.readV 0#4))) := by
  rw [execJumpOffset, finish_eq, conclude_jumped]

/-- Below capacity a call pushes its own address (R95). -/
theorem execCall_of_room (nnn : Addr) (room : s.depth < Config.stackDepth) :
    execCall nnn s = .next ((s.push s.pc).setPc (zextAddr nnn)) := by
  rw [execCall, if_pos room, finish_eq, conclude_jumped]

/-- At capacity a call is a StackOverflow (R95). -/
theorem execCall_of_full (nnn : Addr) (full : Config.stackDepth ≤ s.depth) :
    execCall nnn s = .next (s.latchFailure .stackOverflow (encode (.call nnn)) 0) := by
  rw [execCall, if_neg (Nat.not_lt.mpr full), finish_eq, conclude_fail]

/-- A return goes to the popped address, and the auto-increment passes it (R96). -/
theorem execRet_of_top {a : Word} {rest : List Word} (top : s.stack = a :: rest) :
    execRet s = .next (s.dropTop.setPc a).advance := by
  simp only [execRet, top, finish_eq, conclude_next]

/-- With nothing to pop a return is a StackUnderflow (R96). -/
theorem execRet_of_empty (empty : s.stack = []) :
    execRet s = .next (s.latchFailure .stackUnderflow (encode .ret) 0) := by
  simp only [execRet, empty, finish_eq, conclude_fail]

/-- A pop leaves the entries under the top. -/
theorem State.dropTop_of_top {a : Word} {rest : List Word} (top : s.stack = a :: rest) :
    s.dropTop = { s with stack := rest } := by
  rw [State.dropTop, top, List.tail_cons]

end

/-! ### The statements -/

/-- Settles O11, by `execSys_eq`. -/
theorem sysIsALoggedNoOp : Obligations.SysIsALoggedNoOp := fun nnn _ => ⟨_, execSys_eq nnn, rfl⟩

/-- Settles O12: the pc is the operand zero-extended. -/
theorem jumpSetsThePcToItsAddress : Obligations.JumpSetsThePcToItsAddress := fun nnn _ =>
  ⟨decodeOfEncodeIsTheInstruction (.jump nnn) rfl, _, execJump_eq nnn, rfl, zextAddr_toNat nnn⟩

/-- Settles O13, by `execCall_of_room`. -/
theorem callPushesItsOwnAddress : Obligations.CallPushesItsOwnAddress := fun nnn _ room =>
  ⟨_, execCall_of_room nnn room, rfl, zextAddr_toNat nnn⟩

/-- Settles O14, by `execRet_of_top`. -/
theorem returnGoesTwoPastThePoppedAddress : Obligations.ReturnGoesTwoPastThePoppedAddress := by
  intro s a rest top
  refine ⟨_, execRet_of_top top, ?_⟩
  rw [State.dropTop_of_top top]
  rfl

/-- Settles O15: at depth 16 there is no room, and at depth 0 nothing to pop. -/
theorem stackFailuresChangeNothingElse : Obligations.StackFailuresChangeNothingElse :=
  ⟨fun nnn _ depth => execCall_of_full nnn depth.ge,
    fun _ depth => execRet_of_empty (List.length_eq_zero_iff.mp depth)⟩

/-- Settles O16: the stack the call left has the call's own address on top of the old one. -/
theorem callThenReturnResumesAfterTheCall : Obligations.CallThenReturnResumesAfterTheCall := by
  intro nnn s room
  refine ⟨_, execCall_of_room nnn room, fun u left => ?_⟩
  have top : u.stack = s.pc :: s.stack := left
  refine ⟨_, execRet_of_top top, rfl, ?_⟩
  rw [State.dropTop_of_top top]
  rfl

/-- Settles O17: I is the operand zero-extended. -/
theorem loadAddressSetsI : Obligations.LoadAddressSetsI := fun nnn _ =>
  ⟨decodeOfEncodeIsTheInstruction (.loadAddress nnn) rfl, _, execLoadAddress_eq nnn, rfl, zextAddr_toNat nnn⟩

/-- Settles O18: the sum of the zero-extended operand and V0 does not wrap. -/
theorem jumpOffsetAddsV0 : Obligations.JumpOffsetAddsV0 := fun nnn s =>
  ⟨decodeOfEncodeIsTheInstruction (.jumpOffset nnn) rfl, _, execJumpOffset_eq nnn, rfl,
    zextAddr_add_zextByte_toNat nnn (s.readV 0#4)⟩

end Sys2Proof.Machine
end

section
/-! The statements of spec/42_immediate.md: an equation per instruction of the immediate family, the two key skips by one
rule for what their handlers conclude, then each statement. -/

namespace Sys2Proof.Machine

section
variable {s : State}

/-! ### The meanings -/

theorem execSkipEqualImmediate_eq (x : Reg) (kk : Byte) :
    execSkipEqualImmediate x kk s = .next (s.setPc (if s.readV x = kk then s.pc + 4#16 else s.pc + 2#16)) := by
  simp only [execSkipEqualImmediate, finish_eq, conclude_skipWhen, beq_iff_eq]

theorem execSkipNotEqualImmediate_eq (x : Reg) (kk : Byte) :
    execSkipNotEqualImmediate x kk s = .next (s.setPc (if s.readV x = kk then s.pc + 2#16 else s.pc + 4#16)) := by
  simp only [execSkipNotEqualImmediate, finish_eq, conclude_skipWhen, bne_iff_ne, ite_not]

theorem execLoadImmediate_eq (x : Reg) (kk : Byte) : execLoadImmediate x kk s = .next (s.setV x kk).advance := by
  rw [execLoadImmediate, finish_eq, conclude_next]

theorem execAddImmediate_eq (x : Reg) (kk : Byte) :
    execAddImmediate x kk s = .next (s.setV x (s.readV x + kk)).advance := by
  rw [execAddImmediate, finish_eq, conclude_next]

theorem execRandom_eq (x : Reg) (kk : Byte) :
    execRandom x kk s = .next (s.nextInput.setV x (s.inputs.randByte &&& kk)).advance := by
  rw [execRandom, finish_eq, conclude_next]

/-- A key skip's conclusion: a value that names a key reads the input once and skips on the condition, any other goes to
the next instruction (R104, R105). -/
theorem conclude_keySkip (w : Word) (k : Nat) (c : Bool) :
    conclude w (if k < Config.numKeys then skipWhen c s.nextInput else skipWhen false s) =
      if k < Config.numKeys then s.nextInput.setPc (if c then s.pc + 4#16 else s.pc + 2#16)
      else s.setPc (s.pc + 2#16) := by
  split
  next => exact conclude_skipWhen s.nextInput w c
  next => exact conclude_skipWhen s w false

theorem execSkipIfKeyPressed_eq (x : Reg) :
    execSkipIfKeyPressed x s = .next (if (s.readV x).toNat < Config.numKeys then
        s.nextInput.setPc (if s.keyPressed (s.readV x).toNat then s.pc + 4#16 else s.pc + 2#16)
      else s.setPc (s.pc + 2#16)) := by
  rw [execSkipIfKeyPressed, finish_eq, conclude_keySkip]

theorem execSkipIfKeyNotPressed_eq (x : Reg) :
    execSkipIfKeyNotPressed x s = .next (if (s.readV x).toNat < Config.numKeys then
        s.nextInput.setPc (if s.keyPressed (s.readV x).toNat then s.pc + 2#16 else s.pc + 4#16)
      else s.setPc (s.pc + 2#16)) := by
  rw [execSkipIfKeyNotPressed, finish_eq, conclude_keySkip]
  simp only [Bool.not_eq_true', ← Bool.not_eq_true, ite_not]

end

/-! ### The statements -/

/-- Settles O19: both conclusions write the pc alone. -/
theorem immediateSkipsPassOneWord : Obligations.ImmediateSkipsPassOneWord := fun x kk _ =>
  ⟨⟨_, execSkipEqualImmediate_eq x kk, rfl⟩, ⟨_, execSkipNotEqualImmediate_eq x kk, rfl⟩⟩

/-- Settles O20: a read of a register after the one write, of kk or of the 8-bit sum. -/
theorem immediateLoadAndAddWriteOneRegister : Obligations.ImmediateLoadAndAddWriteOneRegister := by
  intro x kk s
  refine ⟨⟨_, execLoadImmediate_eq x kk, rfl, fun r => ?_⟩, ⟨_, execAddImmediate_eq x kk, rfl, ?_, fun r other => ?_⟩⟩
  · simp only [State.advance_readV, State.readV_setV, eq_comm]
  · rw [State.advance_readV, State.readV_setV_self, BitVec.toNat_add]
  · rw [State.advance_readV, State.readV_setV_other _ _ _ _ other.symm]

/-- Settles O21: the register written holds the byte supplied AND kk, bit by bit. -/
theorem randomMasksTheByteSupplied : Obligations.RandomMasksTheByteSupplied := by
  intro x kk s
  refine ⟨_, execRandom_eq x kk, rfl, fun k => ?_, fun r other => ?_⟩
  · rw [State.advance_readV, State.readV_setV_self, BitVec.getLsbD_and]
  · rw [State.advance_readV, State.readV_setV_other _ _ _ _ other.symm, State.nextInput_readV]

/-- Settles O22, by `conclude_keySkip` in each of the two key skips. -/
theorem keySkipsSampleTheirKey : Obligations.KeySkipsSampleTheirKey := fun x _ =>
  ⟨⟨_, execSkipIfKeyPressed_eq x, rfl⟩, ⟨_, execSkipIfKeyNotPressed_eq x, rfl⟩⟩

end Sys2Proof.Machine
end

section
/-! The statements of spec/43_fx_timer_memory.md: an equation per instruction that moves a value, what a handler that
stores or loads leaves when it completes and at its first bad address, then each statement. The cells of save-registers
and the slots of restore-registers are one shape, a list that runs upward from I (`State.upward`), of which a failure
leaves the first entries done. -/

namespace Sys2Proof.Machine

section
variable {s : State}

/-! ### The meanings that move a value -/

theorem execLoadDelayTimer_eq (x : Reg) : execLoadDelayTimer x s = .next (s.setV x s.dt.value).advance := by
  rw [execLoadDelayTimer, finish_eq, conclude_next]

theorem execSetDelayTimer_eq (x : Reg) : execSetDelayTimer x s = .next (s.setDt (s.dt.set (s.readV x))).advance := by
  rw [execSetDelayTimer, finish_eq, conclude_next]

theorem execSetSoundTimer_eq (x : Reg) : execSetSoundTimer x s = .next (s.setSt (s.st.set (s.readV x))).advance := by
  rw [execSetSoundTimer, finish_eq, conclude_next]

theorem execWaitForKey_eq (x : Reg) : execWaitForKey x s = .next (s.setWaiting (some x)) := by
  rw [execWaitForKey, finish_eq, conclude_blocked]

theorem execIncrementAddressRegister_eq (x : Reg) :
    execIncrementAddressRegister x s = .next (s.setI (s.i + zextByte (s.readV x))).advance := by
  rw [execIncrementAddressRegister, finish_eq, conclude_next]

theorem execFontAddress_of_digit {x : Reg} (digit : (s.readV x).toNat < 16) :
    execFontAddress x s = .next (s.setI (fontAddr s.params (s.readV x))).advance := by
  rw [execFontAddress, if_pos digit, finish_eq, conclude_next]

theorem execFontAddress_of_large {x : Reg} (large : 16 ≤ (s.readV x).toNat) : execFontAddress x s = .next s.advance := by
  rw [execFontAddress, if_neg (Nat.not_lt.mpr large), finish_eq, conclude_next]

/-- A glyph's address is exact for every FONT_BASE (spec/20_memory.md R48). -/
theorem fontAddr_toNat (p : Params) {d : Byte} (digit : d.toNat < 16) :
    (fontAddr p d).toNat = p.fontBase.val + 5 * d.toNat := by
  have := p.fontBase.isLt
  rw [fontAddr, Config.glyphBytes, BitVec.toNat_ofNat]
  omega

/-! ### A key press as a step (spec/60_exceptions.md R150) -/

theorem step_of_host {a : HostAction} {rest : List Turn} (h : s.turns = .host a :: rest) :
    step s = hostAct a { s with turns := rest } := by
  rw [step, h]

theorem State.completeWait_of_none (k : Reg) (idle : s.waiting = none) : s.completeWait k = s := by
  simp only [State.completeWait, idle]

theorem State.completeWait_of_some (k : Reg) {x : Reg} (waits : s.waiting = some x) :
    s.completeWait k = ((s.setV x (k.setWidth 8)).setWaiting none).advance := by
  simp only [State.completeWait, waits]

/-! ### Handlers that store or load -/

/-- A completed store handler changed memory and the pc alone. -/
theorem State.storeCells_advance_frame (s : State) (cs : List Host.Cell) :
    (s.storeCells cs).advance = { s with pc := s.pc + 2#16, mem := (s.storeCells cs).mem } := by
  rw [s.storeCells_frame cs]
  rfl

/-- A store handler at its first cell that cannot be written: the cells before it are stored, and the failure names its
address and its side of the program region (R53, R135). -/
theorem finish_storeAll_of_first_bad (i : Instr) {cs pre post : List Host.Cell} {c : Host.Cell}
    (split : cs = pre ++ c :: post) (ok : ∀ d ∈ pre, storable d) (bad : ¬ storable c) :
    ∃ t, finish i (storeAll cs s) = .next t ∧
      t = { s with
            fault := some ⟨if c.1 < Config.progStart then .writeProtected else .memoryBoundsExceeded, s.pc, encode i,
              BitVec.ofNat 17 c.1⟩
            mem := t.mem } ∧
      ∀ a, t.memRead a = (s.storeCells pre).memRead a := by
  subst split
  refine ⟨_, congrArg (finish i) (storeAll_of_not_storable s pre post c ok bad), ?_, fun _ => rfl⟩
  rw [conclude_fail, s.storeCells_frame pre]
  rfl

/-- The first cell that cannot be written is below the program region (R53). -/
theorem finish_storeAll_of_first_below (i : Instr) {cs pre post : List Host.Cell} {c : Host.Cell}
    (split : cs = pre ++ c :: post) (ok : ∀ d ∈ pre, storable d) (below : c.1 < Config.progStart) :
    ∃ t, finish i (storeAll cs s) = .next t ∧
      t = { s with fault := some ⟨.writeProtected, s.pc, encode i, BitVec.ofNat 17 c.1⟩, mem := t.mem } ∧
      ∀ a, t.memRead a = (s.storeCells pre).memRead a := by
  simpa only [if_pos below] using finish_storeAll_of_first_bad i split ok fun good => Nat.not_lt.mpr good.1 below

/-- The first cell that cannot be written is above the top (R53). -/
theorem finish_storeAll_of_first_above (i : Instr) {cs pre post : List Host.Cell} {c : Host.Cell}
    (split : cs = pre ++ c :: post) (ok : ∀ d ∈ pre, storable d) (above : Config.memTop < c.1) :
    ∃ t, finish i (storeAll cs s) = .next t ∧
      t = { s with fault := some ⟨.memoryBoundsExceeded, s.pc, encode i, BitVec.ofNat 17 c.1⟩, mem := t.mem } ∧
      ∀ a, t.memRead a = (s.storeCells pre).memRead a := by
  have side : ¬ c.1 < Config.progStart := Nat.not_lt.mpr (Nat.le_of_lt (Nat.lt_trans (by decide) above))
  simpa only [if_neg side] using finish_storeAll_of_first_bad i split ok fun good => Nat.not_lt.mpr good.2 above

/-- A load handler at its first address above the top (R114, R135). -/
theorem finish_loadAll_of_first_above (i : Instr) {rs pre post : List (Nat × Reg)} {q : Nat × Reg}
    (split : rs = pre ++ q :: post) (ok : ∀ p ∈ pre, p.1 ≤ Config.memTop) (above : Config.memTop < q.1) :
    ∃ t, finish i (loadAll rs s) = .next t ∧
      t = { s with
            fault := some ⟨.memoryBoundsExceeded, s.pc, encode i, BitVec.ofNat 17 q.1⟩
            v := t.v } ∧
      ∀ r, t.readV r = (s.loadSlots pre).readV r := by
  subst split
  refine ⟨_, congrArg (finish i) (loadAll_of_above s pre post q ok above), ?_, fun _ => rfl⟩
  rw [conclude_fail, s.loadSlots_frame pre]
  rfl

/-! ### Lists that run upward from I -/

/-- The first `n` entries of a list that runs upward from I. -/
def State.upward {β : Type} (s : State) (f : Nat → β) (n : Nat) : List (Nat × β) :=
  (List.range n).map fun k => (s.effAddr k, f k)

theorem State.saveCells_eq_upward (s : State) (x : Reg) :
    s.saveCells x = s.upward (fun k => s.readV (BitVec.ofNat 4 k)) (x.toNat + 1) := rfl

theorem State.restoreSlots_eq_upward (s : State) (x : Reg) :
    s.restoreSlots x = s.upward (BitVec.ofNat 4) (x.toNat + 1) := rfl

section
variable {β : Type} {f : Nat → β} {n m : Nat}

theorem State.mem_upward {q : Nat × β} : q ∈ s.upward f n ↔ ∃ k < n, (s.effAddr k, f k) = q := by
  simp only [State.upward, List.mem_map, List.mem_range]

/-- A longer list is a shorter one, its next entry and a rest. -/
theorem State.upward_split (h : n < m) : ∃ post, s.upward f m = s.upward f n ++ (s.effAddr n, f n) :: post := by
  obtain ⟨d, rfl⟩ := Nat.exists_eq_add_of_lt h
  rw [Nat.add_assoc, State.upward, List.range_add, List.range_succ_eq_map]
  simp only [List.map_append, List.map_cons, Nat.add_zero]
  exact ⟨_, rfl⟩

/-- The number of addresses from I upward that exist. -/
def State.fitting (s : State) : Nat := Config.memTop + 1 - s.i.toNat

theorem State.lt_fitting {k : Nat} : k < s.fitting ↔ s.i.toNat + k ≤ 0xFFF := by
  simp only [State.fitting, Config.memTop]
  omega

theorem State.effAddr_fitting (s : State) : s.effAddr s.fitting = max s.i.toNat 0x1000 := by
  simp only [State.effAddr, State.fitting, Config.memTop]
  omega

/-- Past the top, a list upward from I splits at the first address that does not exist. -/
theorem State.upward_split_fitting (past : ¬ m ≤ s.fitting) :
    ∃ post, s.upward f m = s.upward f s.fitting ++ (max s.i.toNat 0x1000, f s.fitting) :: post :=
  s.effAddr_fitting ▸ State.upward_split (Nat.not_le.mp past)

theorem State.mem_upward_fitting {q : Nat × β} (hq : q ∈ s.upward f s.fitting) :
    s.i.toNat ≤ q.1 ∧ q.1 ≤ Config.memTop := by
  obtain ⟨k, hk, rfl⟩ := State.mem_upward.mp hq
  exact ⟨Nat.le_add_right _ _, State.lt_fitting.mp hk⟩

theorem State.upward_addresses_nodup : ((s.upward f n).map Prod.fst).Nodup := by
  rw [State.upward, List.map_map]
  exact List.nodup_range.map fun a b (h : s.effAddr a = s.effAddr b) => Nat.add_left_cancel h

end

/-- A byte stored upward from I is read back at its address. -/
theorem State.memRead_storeCells_upward {f : Nat → Byte} {n k : Nat} (hk : k < n)
    (top : s.i.toNat + k ≤ Config.memTop) : (s.storeCells (s.upward f n)).memRead (s.i.toNat + k) = f k := by
  rw [State.memRead, if_pos top]
  exact s.storeCells_byteAt_mem _ _ (State.mem_upward.mpr ⟨k, hk, rfl⟩) State.upward_addresses_nodup

/-- Bytes stored upward from I leave the addresses below and above them alone. -/
theorem State.memRead_storeCells_upward_other {f : Nat → Byte} {n a : Nat} (ha : a < s.i.toNat ∨ s.i.toNat + n ≤ a) :
    (s.storeCells (s.upward f n)).memRead a = s.memRead a := by
  have apart : ∀ c ∈ s.upward f n, c.1 ≠ a := by
    intro c hc
    obtain ⟨k, hk, rfl⟩ := State.mem_upward.mp hc
    simp only [State.effAddr]
    omega
  rw [State.memRead, State.memRead, s.storeCells_byteAt_other _ a apart]

/-- The registers loaded upward from I hold their bytes, and the others what they held. -/
theorem State.readV_loadSlots_upward {n : Nat} (hn : n ≤ 16) (r : Reg) :
    (s.loadSlots (s.upward (BitVec.ofNat 4) n)).readV r =
      if r.toNat < n then s.memRead (s.i.toNat + r.toNat) else s.readV r := by
  have index {k : Nat} (hk : k < n) : (BitVec.ofNat 4 k).toNat = k := by
    rw [BitVec.toNat_ofNat, Nat.mod_eq_of_lt (hk.trans_le hn)]
  split
  next loaded =>
    have distinct : ((s.upward (BitVec.ofNat 4) n).map Prod.snd).Nodup := by
      rw [State.upward, List.map_map]
      refine List.nodup_range.map_on fun a ha b hb (h : BitVec.ofNat 4 a = BitVec.ofNat 4 b) => ?_
      rw [← index (List.mem_range.mp ha), h, index (List.mem_range.mp hb)]
    exact s.loadSlots_readV_mem _ (s.effAddr r.toNat, r)
      (State.mem_upward.mpr ⟨r.toNat, loaded, by rw [reg_ofNat_toNat]⟩) distinct
  next kept =>
    refine s.loadSlots_readV_other _ r fun q hq => ?_
    obtain ⟨k, hk, rfl⟩ := State.mem_upward.mp hq
    rintro rfl
    exact kept (by rwa [index hk])

/-- With its sources in the array, restore-registers loads every slot (R114). -/
theorem execRestoreRegisters_of_inRange {x : Reg} (high : s.i.toNat + x.toNat ≤ Config.memTop) :
    execRestoreRegisters x s = .next (s.loadSlots (s.restoreSlots x)).advance := by
  have all : ∀ q ∈ s.restoreSlots x, q.1 ≤ Config.memTop := by
    intro q hq
    obtain ⟨k, hk, rfl⟩ := State.mem_upward.mp (s.restoreSlots_eq_upward x ▸ hq)
    exact (Nat.add_le_add_left (Nat.le_of_lt_succ hk) _).trans high
  rw [execRestoreRegisters, loadAll_of_inRange s _ all, finish_eq, conclude_next]

/-! ### The decimal digits -/

theorem onesDigit_toNat (b : Byte) : (onesDigit b).toNat = b.toNat % 10 := BitVec.toNat_umod

theorem tensDigit_toNat (b : Byte) : (tensDigit b).toNat = b.toNat / 10 % 10 := by
  rw [tensDigit, BitVec.toNat_umod, BitVec.toNat_udiv]
  rfl

theorem hundredsDigit_toNat (b : Byte) : (hundredsDigit b).toNat = b.toNat / 100 := BitVec.toNat_udiv

/-- With its three targets in the program region, binary-coded-decimal stores its three cells (R112). -/
theorem execBinaryCodedDecimal_of_inRegion {x : Reg} (low : Config.progStart ≤ s.i.toNat)
    (high : s.i.toNat + 2 ≤ Config.memTop) :
    execBinaryCodedDecimal x s = .next (s.storeCells (s.bcdCells (s.readV x))).advance := by
  have all : ∀ c ∈ s.bcdCells (s.readV x), storable c := by
    simp only [State.bcdCells, List.forall_mem_cons, List.not_mem_nil, false_imp_iff, implies_true, and_true, storable,
      State.effAddr]
    omega
  rw [execBinaryCodedDecimal, storeAll_of_storable s _ all, finish_eq, conclude_next]

/-- The bytes after binary-coded-decimal: the hundreds at I, the tens and the ones above it (R112). -/
theorem State.memRead_storeCells_bcdCells (b : Byte) (high : s.i.toNat + 2 ≤ Config.memTop) (a : Nat) :
    (s.storeCells (s.bcdCells b)).memRead a =
      if s.i.toNat = a then hundredsDigit b
      else if s.i.toNat + 1 = a then tensDigit b
      else if s.i.toNat + 2 = a then onesDigit b
      else s.memRead a := by
  simp only [State.bcdCells, State.storeCells_cons, State.storeCells_nil, State.effAddr, Nat.add_zero]
  rw [State.memRead_setByte _ _ _ _ (by omega), State.memRead_setByte _ _ _ _ (by omega), s.memRead_setByte _ _ _ high]

end

/-! ### The statements -/

/-- Settles O23: a move writes its register or its timer's value, and `Timer.set` keeps the running state. -/
theorem timerMovesCopyTheirValue : Obligations.TimerMovesCopyTheirValue := by
  intro x s
  refine ⟨⟨_, execLoadDelayTimer_eq x, rfl, fun r => ?_⟩, ⟨_, execSetDelayTimer_eq x, rfl, rfl, rfl⟩,
    ⟨_, execSetSoundTimer_eq x, rfl, rfl, rfl⟩⟩
  simp only [State.advance_readV, State.readV_setV, eq_comm]

/-- Settles O24, by `execWaitForKey_eq`. -/
theorem waitForKeyBlocks : Obligations.WaitForKeyBlocks := fun x _ => ⟨_, execWaitForKey_eq x, rfl⟩

/-- Settles O25: the turn is the host's, and the two cases are those of `State.completeWait`. -/
theorem keyPressCompletesAPendingWait : Obligations.KeyPressCompletesAPendingWait := by
  intro s k rest turns
  rw [step_of_host turns, hostAct]
  refine ⟨fun idle => congrArg _ (State.completeWait_of_none k idle), fun x waits => ?_⟩
  refine ⟨_, congrArg _ (State.completeWait_of_some k waits), rfl, ?_, fun r other => ?_⟩
  · rw [State.advance_readV, State.setWaiting_readV, State.readV_setV_self, BitVec.toNat_setWidth_of_le (by decide)]
  · rw [State.advance_readV, State.setWaiting_readV, State.readV_setV_other _ _ _ _ other.symm]
    rfl

/-- Settles O26: the sum of 16-bit words, one of them a byte zero-extended. -/
theorem incrementAddressRegisterWrapsAt16Bits : Obligations.IncrementAddressRegisterWrapsAt16Bits := by
  intro x s
  refine ⟨_, execIncrementAddressRegister_eq x, rfl, ?_⟩
  rw [State.advance_i, State.setI_i, BitVec.toNat_add, zextByte_toNat]

/-- Settles O27, by the two cases of the value. -/
theorem fontAddressPointsAtTheGlyph : Obligations.FontAddressPointsAtTheGlyph := by
  intro x s
  obtain digit | large := Nat.lt_or_ge (s.readV x).toNat 16
  · exact ⟨_, execFontAddress_of_digit digit, rfl, fun _ => fontAddr_toNat s.params digit,
      fun large => absurd digit (Nat.not_lt.mpr large)⟩
  · exact ⟨_, execFontAddress_of_large large, rfl, fun digit => absurd digit (Nat.not_lt.mpr large), fun _ => rfl⟩

/-- Settles O28: the three stored bytes are the digits, and the digits make up the value. -/
theorem decimalDigitsAreStored : Obligations.DecimalDigitsAreStored := by
  intro x s low high
  refine ⟨_, execBinaryCodedDecimal_of_inRegion low high, State.storeCells_advance_frame s _, ?_⟩
  have read := State.memRead_storeCells_bcdCells (s.readV x) high
  have hundreds := (read s.i.toNat).trans (if_pos rfl)
  have tens := (read (s.i.toNat + 1)).trans ((if_neg (by omega)).trans (if_pos rfl))
  have ones := (read (s.i.toNat + 2)).trans ((if_neg (by omega)).trans ((if_neg (by omega)).trans (if_pos rfl)))
  simp only [State.advance_memRead, hundreds, tens, ones, hundredsDigit_toNat, tensDigit_toNat, onesDigit_toNat]
  refine ⟨by omega, by omega, by omega, fun a ha => ?_⟩
  rw [read, if_neg (by omega), if_neg (by omega), if_neg (by omega)]

/-- Settles O29: the first bad target in the order I + 2, I + 1, I, with the cells before it in that order stored. -/
theorem decimalDigitsFailAtTheFirstBadTarget : Obligations.DecimalDigitsFailAtTheFirstBadTarget := by
  intro x s bad
  have hi := s.i.isLt
  have cells : s.bcdCells (s.readV x) = [(s.i.toNat + 2, onesDigit (s.readV x)), (s.i.toNat + 1, tensDigit (s.readV x)),
    (s.i.toNat, hundredsDigit (s.readV x))] := rfl
  by_cases above : 0xFFF < s.i.toNat + 2
  · obtain ⟨t, run, frame, bytes⟩ := finish_storeAll_of_first_above (.binaryCodedDecimal x) (pre := []) cells
      nofun above
    refine ⟨t, _, run, frame, rfl, rfl, ?_⟩
    rw [if_pos above]
    exact ⟨rfl, faultAddr_toNat (by omega), bytes⟩
  by_cases low2 : s.i.toNat + 2 < 0x200
  · obtain ⟨t, run, frame, bytes⟩ := finish_storeAll_of_first_below (.binaryCodedDecimal x) (pre := []) cells
      nofun low2
    refine ⟨t, _, run, frame, rfl, rfl, ?_⟩
    rw [if_neg above, if_pos low2]
    exact ⟨rfl, faultAddr_toNat (by omega), bytes⟩
  by_cases low1 : s.i.toNat + 1 < 0x200
  · have target2 : s.i.toNat + 2 = 0x200 := by omega
    rw [target2] at cells
    obtain ⟨t, run, frame, bytes⟩ := finish_storeAll_of_first_below (.binaryCodedDecimal x) (pre := [_]) cells
      (by simp [storable, Config.progStart, Config.memTop]) low1
    refine ⟨t, _, run, frame, rfl, rfl, ?_⟩
    rw [if_neg above, if_neg low2, if_pos low1]
    have read a := (bytes a).trans (s.memRead_setByte 0x200 a _ (by decide))
    refine ⟨rfl, faultAddr_toNat (by omega), ?_, fun a ha => ?_⟩
    · rw [read, if_pos rfl, onesDigit_toNat]
    · rw [read, if_neg ha.symm]
  · have target2 : s.i.toNat + 2 = 0x201 := by omega
    have target1 : s.i.toNat + 1 = 0x200 := by omega
    have low0 : s.i.toNat < 0x200 := by omega
    rw [target2, target1] at cells
    obtain ⟨t, run, frame, bytes⟩ := finish_storeAll_of_first_below (.binaryCodedDecimal x) (pre := [_, _]) cells
      (by simp [storable, Config.progStart, Config.memTop]) low0
    refine ⟨t, _, run, frame, rfl, rfl, ?_⟩
    rw [if_neg above, if_neg low2, if_neg low1]
    have read a := (bytes a).trans (State.memRead_setByte _ 0x200 a _ (by decide))
    have read' a := s.memRead_setByte 0x201 a (onesDigit (s.readV x)) (by decide)
    refine ⟨rfl, faultAddr_toNat (by omega), ?_, ?_, fun a ha ha' => ?_⟩
    · rw [read, if_neg (by decide), read', if_pos rfl, onesDigit_toNat]
    · rw [read, if_pos rfl, tensDigit_toNat]
    · rw [read, if_neg ha.symm, read', if_neg ha'.symm]

/-- Settles O30, by `State.memRead_storeCells_upward` and its complement. -/
theorem saveStoresTheRegistersUpward : Obligations.SaveStoresTheRegistersUpward := by
  intro x s low high
  refine ⟨_, execSaveRegisters_of_inRegion low high, s.storeCells_advance_frame _, fun r hr => ?_, fun a ha => ?_⟩
  · rw [State.advance_memRead, State.saveCells_eq_upward, State.memRead_storeCells_upward (Nat.lt_succ_of_le hr)
      ((Nat.add_le_add_left hr _).trans high), reg_ofNat_toNat]
  · rw [State.advance_memRead, State.saveCells_eq_upward, State.memRead_storeCells_upward_other (by omega)]

/-- Settles O31: from below the region the first store fails; past the top the registers that fit are stored. -/
theorem saveFailsAfterThePrefixThatFits : Obligations.SaveFailsAfterThePrefixThatFits := by
  intro x s bad
  have hi := s.i.isLt
  by_cases low : s.i.toNat < 0x200
  · obtain ⟨post, split⟩ := State.upward_split (s := s) (f := fun k => s.readV (BitVec.ofNat 4 k)) x.toNat.succ_pos
    obtain ⟨t, run, frame, bytes⟩ := finish_storeAll_of_first_below (.saveRegisters x) split nofun low
    refine ⟨t, _, run, frame, rfl, rfl, ?_⟩
    rw [if_pos low]
    exact ⟨rfl, faultAddr_toNat (low.le.trans (by decide)), bytes⟩
  · have past : ¬ x.toNat < s.fitting := State.lt_fitting.not.mpr (Nat.not_le.mpr (bad.resolve_left low))
    have ok : ∀ c ∈ s.upward (fun k => s.readV (BitVec.ofNat 4 k)) s.fitting, storable c := fun c hc =>
      (State.mem_upward_fitting hc).imp_left (Nat.le_trans (Nat.not_lt.mp low))
    obtain ⟨post, split⟩ := State.upward_split_fitting (f := fun k => s.readV (BitVec.ofNat 4 k)) past
    obtain ⟨t, run, frame, bytes⟩ :=
      finish_storeAll_of_first_above (.saveRegisters x) split ok (Nat.lt_of_succ_le (Nat.le_max_right _ _))
    refine ⟨t, _, run, frame, rfl, rfl, ?_⟩
    rw [if_neg low]
    refine ⟨rfl, faultAddr_toNat (by omega), fun r hr => ?_, fun a ha => ?_⟩
    · rw [bytes, State.memRead_storeCells_upward (State.lt_fitting.mpr hr) hr, reg_ofNat_toNat]
    · rw [bytes, State.memRead_storeCells_upward_other (.inl ha)]

/-- Settles O32, by `State.readV_loadSlots_upward`. -/
theorem restoreLoadsTheRegistersUpward : Obligations.RestoreLoadsTheRegistersUpward := by
  intro x s high
  refine ⟨_, execRestoreRegisters_of_inRange high, ?_, fun r => ?_⟩
  · rw [s.loadSlots_frame]
    rfl
  · rw [State.advance_readV, State.restoreSlots_eq_upward, State.readV_loadSlots_upward x.isLt]
    simp only [Nat.lt_succ_iff]

/-- Settles O33: the registers that fit are loaded. -/
theorem restoreFailsAfterThePrefixThatFits : Obligations.RestoreFailsAfterThePrefixThatFits := by
  intro x s above
  have hi := s.i.isLt
  have past : ¬ x.toNat < s.fitting := State.lt_fitting.not.mpr (Nat.not_le.mpr above)
  obtain ⟨post, split⟩ := State.upward_split_fitting (f := BitVec.ofNat 4) past
  obtain ⟨t, run, frame, regs⟩ := finish_loadAll_of_first_above (.restoreRegisters x) split
    (fun _ hq => (State.mem_upward_fitting hq).2) (Nat.lt_of_succ_le (Nat.le_max_right _ _))
  refine ⟨t, _, run, frame, rfl, rfl, rfl, faultAddr_toNat (by omega), fun r => ?_⟩
  rw [regs, State.readV_loadSlots_upward ((Nat.not_lt.mp past).trans x.isLt.le)]
  simp only [State.lt_fitting]

end Sys2Proof.Machine
end

section
/-! The statements of spec/44_register.md: an equation per instruction of the register family, the flags as conditions on
numbers, and a register read after a result and its flag in either order (R126): the flag last (add, sub, subn), or the
flag first and the result computed from the register read again (the shifts). -/

namespace Sys2Proof.Machine

section
variable {s : State}

/-! ### One register written -/

theorem execMove_eq (x y : Reg) : execMove x y s = .next (s.setV x (s.readV y)).advance := by
  rw [execMove, finish_eq, conclude_next]

theorem execOr_eq (x y : Reg) : execOr x y s = .next (s.setV x (s.readV x ||| s.readV y)).advance := by
  rw [execOr, finish_eq, conclude_next]

theorem execAnd_eq (x y : Reg) : execAnd x y s = .next (s.setV x (s.readV x &&& s.readV y)).advance := by
  rw [execAnd, finish_eq, conclude_next]

theorem execXor_eq (x y : Reg) : execXor x y s = .next (s.setV x (s.readV x ^^^ s.readV y)).advance := by
  rw [execXor, finish_eq, conclude_next]

/-- An instruction that leaves in `V[x]` a byte given by its bits, and goes to the next instruction. -/
theorem exists_next_of_setV_bits {o : Host.Outcome State Fault Refusal} {x : Reg} {b : Byte} {bit : Nat → Bool}
    (run : o = .next (s.setV x b).advance) (bits : ∀ k, b.getLsbD k = bit k) :
    ∃ t, o = .next t ∧ t = { s with pc := s.pc + 2#16, v := t.v } ∧ (∀ k, (t.readV x).getLsbD k = bit k) ∧
      ∀ r, r ≠ x → t.readV r = s.readV r := by
  refine ⟨_, run, rfl, fun k => ?_, fun r other => ?_⟩
  · rw [State.advance_readV, State.readV_setV_self, bits]
  · rw [State.advance_readV, State.readV_setV_other _ _ _ _ other.symm]

/-! ### The flags -/

/-- The sum is less than the destination was exactly when it does not fit in a byte (R119). -/
theorem carryFlag_eq (a b : Byte) : carryFlag a b = if 256 ≤ a.toNat + b.toNat then 1#8 else 0#8 := by
  have wraps : a + b < a ↔ 256 ≤ a.toNat + b.toNat := by
    rw [BitVec.lt_def, BitVec.toNat_add]
    omega
  simp only [carryFlag, flagOf, decide_eq_true_eq, wraps]

theorem noBorrowFlag_eq (a b : Byte) : noBorrowFlag a b = if b.toNat ≤ a.toNat then 1#8 else 0#8 := by
  simp only [noBorrowFlag, flagOf, decide_eq_true_eq, BitVec.le_def]

theorem lowBit_toNat (a : Byte) : (lowBit a).toNat = a.toNat % 2 := by
  rw [lowBit, BitVec.toNat_and]
  exact Nat.and_one_is_mod _

theorem highBit_toNat (a : Byte) : (highBit a).toNat = a.toNat / 128 := by
  rw [highBit, BitVec.toNat_ushiftRight, Nat.shiftRight_eq_div_pow]

/-! ### The shifted byte -/

theorem toNat_ushiftRight_one (a : Byte) : (a >>> 1).toNat = a.toNat / 2 := by
  rw [BitVec.toNat_ushiftRight, Nat.shiftRight_one]

theorem toNat_shiftLeft_one (a : Byte) : (a <<< 1).toNat = 2 * a.toNat % 256 := by
  rw [BitVec.toNat_shiftLeft, Nat.shiftLeft_eq, Nat.mul_comm]

/-- The flag of shr, shifted: nothing stays (R126). -/
theorem lowBit_ushiftRight_one (a : Byte) : lowBit a >>> 1 = 0#8 := by
  apply BitVec.eq_of_toNat_eq
  rw [toNat_ushiftRight_one, lowBit_toNat]
  exact Nat.div_eq_of_lt (Nat.mod_lt _ Nat.two_pos)

/-- The flag of shl, shifted: nothing is lost (R126). -/
theorem toNat_highBit_shiftLeft_one (a : Byte) : (highBit a <<< 1).toNat = 2 * (a.toNat / 128) := by
  rw [toNat_shiftLeft_one, highBit_toNat]
  omega

/-! ### The flag written last -/

theorem State.readV_setFlag_self (f : Byte) : (s.setFlag f).readV flagReg = f := s.readV_setV_self flagReg f

theorem State.readV_setFlag_other (f : Byte) {r : Reg} (hr : r ≠ flagReg) : (s.setFlag f).readV r = s.readV r :=
  s.readV_setV_other flagReg r f hr.symm

/-- A result stays under the flag where its register is not VF. -/
theorem State.readV_setV_setFlag_self (b f : Byte) {d : Reg} (hd : d ≠ flagReg) :
    ((s.setV d b).setFlag f).readV d = b := by
  rw [State.readV_setFlag_other f hd, State.readV_setV_self]

theorem State.readV_setV_setFlag_other (b f : Byte) {d r : Reg} (hd : r ≠ d) (hr : r ≠ flagReg) :
    ((s.setV d b).setFlag f).readV r = s.readV r := by
  rw [State.readV_setFlag_other f hr, State.readV_setV_other _ _ _ _ hd.symm]

theorem execAdd_eq (x y : Reg) : execAdd x y s =
    .next ((s.setV x (s.readV x + s.readV y)).setFlag (carryFlag (s.readV x) (s.readV y))).advance := by
  rw [execAdd, finish_eq, conclude_next]

theorem execSub_eq (x y : Reg) : execSub x y s = .next (subtractInto x (s.readV x) (s.readV y) s).advance := by
  rw [execSub, finish_eq, conclude_next]

theorem execSubn_eq (x y : Reg) : execSubn x y s =
    .next (subtractInto (subnTarget s.params.subnDest x y) (s.readV y) (s.readV x) s).advance := by
  rw [execSubn, finish_eq, conclude_next]

/-- The difference and the subtrahend make up the minuend, modulo 256. -/
theorem subtractInto_readV_self (a b : Byte) {d : Reg} (hd : d ≠ flagReg) :
    (((subtractInto d a b s).readV d).toNat + b.toNat) % 256 = a.toNat := by
  rw [subtractInto, State.readV_setV_setFlag_self _ _ hd]
  calc ((a - b).toNat + b.toNat) % 256 = (a - b + b).toNat := (BitVec.toNat_add _ _).symm
    _ = a.toNat := by rw [BitVec.sub_add_cancel]

theorem subtractInto_readV_flagReg (d : Reg) (a b : Byte) :
    (subtractInto d a b s).readV flagReg = if b.toNat ≤ a.toNat then 1#8 else 0#8 := by
  rw [subtractInto, State.readV_setFlag_self, noBorrowFlag_eq]

theorem subtractInto_readV_other (a b : Byte) {d r : Reg} (hd : r ≠ d) (hr : r ≠ flagReg) :
    (subtractInto d a b s).readV r = s.readV r := State.readV_setV_setFlag_other _ _ hd hr

/-! ### The flag written first -/

/-- What the two shifts do: the flag, then the shift of `V[x]` read again (R121, R123). -/
def State.flagThenShift (s : State) (x : Reg) (f : Byte) (shift : Byte → Byte) : State :=
  (s.setFlag f).setV x (shift ((s.setFlag f).readV x))

theorem execShr_eq (x y : Reg) :
    execShr x y s = .next (s.flagThenShift x (lowBit (s.readV x)) (· >>> 1)).advance := by
  rw [execShr, finish_eq, conclude_next, State.flagThenShift]

theorem execShl_eq (x y : Reg) :
    execShl x y s = .next (s.flagThenShift x (highBit (s.readV x)) (· <<< 1)).advance := by
  rw [execShl, finish_eq, conclude_next, State.flagThenShift]

/-- An instruction that does what the shifts do: where VF is itself shifted, it is the flag that is (R126). -/
theorem exists_next_of_flagThenShift {o : Host.Outcome State Fault Refusal} {x : Reg} {f : Byte} {shift : Byte → Byte}
    (run : o = .next (s.flagThenShift x f shift).advance) :
    ∃ t, o = .next t ∧ t = { s with pc := s.pc + 2#16, v := t.v } ∧
      (x ≠ flagReg → t.readV x = shift (s.readV x) ∧ t.readV flagReg = f) ∧
      (x = flagReg → t.readV x = shift f) ∧ ∀ r, r ≠ x → r ≠ flagReg → t.readV r = s.readV r := by
  refine ⟨_, run, rfl, fun hx => ⟨?_, ?_⟩, ?_, fun r other hr => ?_⟩ <;>
    rw [State.advance_readV, State.flagThenShift]
  · rw [State.readV_setV_self, State.readV_setFlag_other f hx]
  · rw [State.readV_setV_other _ _ _ _ hx, State.readV_setFlag_self]
  · rintro rfl
    rw [State.readV_setV_self, State.readV_setFlag_self]
  · rw [State.readV_setV_other _ _ _ _ other.symm, State.readV_setFlag_other f hr]

/-! ### The skips -/

theorem execSkipIfEqual_eq (x y : Reg) :
    execSkipIfEqual x y s = .next (s.setPc (if s.readV x = s.readV y then s.pc + 4#16 else s.pc + 2#16)) := by
  simp only [execSkipIfEqual, finish_eq, conclude_skipWhen, beq_iff_eq]

theorem execSkipIfNotEqual_eq (x y : Reg) :
    execSkipIfNotEqual x y s = .next (s.setPc (if s.readV x = s.readV y then s.pc + 2#16 else s.pc + 4#16)) := by
  simp only [execSkipIfNotEqual, finish_eq, conclude_skipWhen, bne_iff_ne, ite_not]

end

/-! ### The statements -/

/-- Settles O34: one register is written, by move with Vy, by the logic operations bit by bit. -/
theorem moveAndLogicWriteOneRegister : Obligations.MoveAndLogicWriteOneRegister := by
  intro x y s
  refine ⟨⟨_, execMove_eq x y, rfl, fun r => ?_⟩, exists_next_of_setV_bits (execOr_eq x y) fun _ => BitVec.getLsbD_or,
    exists_next_of_setV_bits (execAnd_eq x y) fun _ => BitVec.getLsbD_and,
    exists_next_of_setV_bits (execXor_eq x y) fun _ => BitVec.getLsbD_xor⟩
  simp only [State.advance_readV, State.readV_setV, eq_comm]

/-- Settles O35: the sum, and over it the carry, which says that the sum did not fit (`carryFlag_eq`). -/
theorem addWritesSumAndCarry : Obligations.AddWritesSumAndCarry := by
  intro x y s
  refine ⟨_, execAdd_eq x y, rfl, fun hx => ?_, (State.readV_setFlag_self _).trans (carryFlag_eq _ _),
    fun r hd hr => State.readV_setV_setFlag_other _ _ hd hr⟩
  rw [State.advance_readV, State.readV_setV_setFlag_self _ _ hx, BitVec.toNat_add]

/-- Settles O36, by the rules of `subtractInto`. -/
theorem subWritesDifferenceAndNoBorrow : Obligations.SubWritesDifferenceAndNoBorrow := fun x y _ =>
  ⟨_, execSub_eq x y, rfl, subtractInto_readV_self _ _, subtractInto_readV_flagReg x _ _,
    fun _ => subtractInto_readV_other _ _⟩

/-- Settles O37, by the rules of `subtractInto` at the register of each setting. -/
theorem subnWritesTheSelectedRegister : Obligations.SubnWritesTheSelectedRegister := by
  intro x y s
  refine ⟨_, execSubn_eq x y, rfl, fun toY => ?_, fun toX => ?_, subtractInto_readV_flagReg _ _ _⟩
  · rw [toY]
    exact ⟨subtractInto_readV_self _ _, fun _ => subtractInto_readV_other _ _⟩
  · rw [toX]
    exact ⟨subtractInto_readV_self _ _, fun _ => subtractInto_readV_other _ _⟩

/-- Settles O38: where x is F the shift is one of the flag, elsewhere of the old value. -/
theorem shiftsMoveTheOuterBitToVF : Obligations.ShiftsMoveTheOuterBitToVF := by
  intro x y s
  obtain ⟨t, run, frame, apart, onFlag, kept⟩ := exists_next_of_flagThenShift (execShr_eq (s := s) x y)
  obtain ⟨u, run', frame', apart', onFlag', kept'⟩ := exists_next_of_flagThenShift (execShl_eq (s := s) x y)
  refine ⟨⟨t, run, frame, fun hx => ?_, fun hx => ?_, kept⟩, ⟨u, run', frame', fun hx => ?_, fun hx => ?_, kept'⟩⟩
  · obtain ⟨result, flag⟩ := apart hx
    rw [result, ← flagReg, flag]
    exact ⟨toNat_ushiftRight_one _, lowBit_toNat _⟩
  · rw [onFlag hx, lowBit_ushiftRight_one]
  · obtain ⟨result, flag⟩ := apart' hx
    rw [result, ← flagReg, flag]
    exact ⟨toNat_shiftLeft_one _, highBit_toNat _⟩
  · rw [onFlag' hx, toNat_highBit_shiftLeft_one]

/-- Settles O39: both conclusions write the pc alone. -/
theorem registerSkipsPassOneWord : Obligations.RegisterSkipsPassOneWord := fun x y _ =>
  ⟨⟨_, execSkipIfEqual_eq x y, rfl⟩, ⟨_, execSkipIfNotEqual_eq x y, rfl⟩⟩

end Sys2Proof.Machine
end

section
/-! The statements of spec/45_display.md: what the two draw instructions do once the answer is there, the rows a sprite
copies, and what the truncation log and the flag of a sprite leave of the state. -/

namespace Sys2Proof.Machine

section
variable {s : State} {c : BitVec 1}

/-- clear-screen, answered: the value of the answer does not show (R127). -/
theorem execClearScreen_of_answered (answered : s.inputs.drawResp = some c) :
    execClearScreen s = .next (s.nextInput.emitDraw .clear).advance := by
  rw [execClearScreen, s.draw_answered _ _ c answered, finish_eq, conclude_next]

/-! ### The rows of a sprite -/

/-- The rows draw-sprite copies: those of its `n` at I that lie in the array (R128). -/
def State.copiedRows (s : State) (n : Reg) : List Byte := s.spriteRows (s.effAddr 0) n.toNat

theorem State.copiedRows_length (n : Reg) : (s.copiedRows n).length = min n.toNat (0x1000 - s.i.toNat) :=
  s.spriteRows_length _ _

theorem State.copiedRows_getElem {n : Reg} {k : Nat} (h : k < (s.copiedRows n).length) :
    (s.copiedRows n)[k] = s.memRead (s.i.toNat + k) :=
  s.spriteRows_getElem _ _ _ h

/-! ### The log and the flag of a sprite -/

theorem State.logTruncation_log (requested copied : Nat) : (s.logTruncation requested copied).log =
    s.log ++ (if copied < requested then [.spriteTruncated s.pc requested copied] else []) := by
  unfold State.logTruncation
  split
  · exact s.emitLog_log _
  · exact (List.append_nil _).symm

theorem State.logTruncation_readV (requested copied : Nat) (r : Reg) :
    (s.logTruncation requested copied).readV r = s.readV r := by
  rw [State.logTruncation_frame]
  rfl

theorem collisionByte_toNat (c : BitVec 1) : (collisionByte c).toNat = c.toNat :=
  BitVec.toNat_setWidth_of_le (by decide)

/-- draw-sprite, answered: the request with the rows, the log, then the answer in VF (R128). -/
theorem execDrawSprite_of_answered (x y n : Reg) (answered : s.inputs.drawResp = some c) :
    execDrawSprite x y n s =
      .next (((s.nextInput.emitDraw (.sprite (s.readV x) (s.readV y) (s.copiedRows n))).logTruncation n.toNat
        (s.copiedRows n).length).setFlag (collisionByte c)).advance := by
  simp only [execDrawSprite, s.draw_answered _ _ c answered, finish_eq, conclude_next, State.copiedRows]

end

/-! ### The statements -/

/-- Settles O41, by the rows of `State.copiedRows` and the rules of the truncation log and of the flag. -/
theorem drawSpriteIssuesItsRows : Obligations.DrawSpriteIssuesItsRows := by
  intro x y n s c answered
  refine ⟨_, s.copiedRows n, execDrawSprite_of_answered x y n answered, ?_, State.copiedRows_length n,
    fun k h => State.copiedRows_getElem h, ?_, fun r hr => ?_, State.logTruncation_log _ _⟩
  · rw [State.logTruncation_frame]
    rfl
  · exact (congrArg BitVec.toNat (State.readV_setFlag_self _)).trans (collisionByte_toNat c)
  · rw [State.advance_readV, State.readV_setFlag_other _ hr, State.logTruncation_readV, State.emitDraw_readV,
      State.nextInput_readV]

/-- Settles O40, by the decoder's first row and `execClearScreen_of_answered`. -/
theorem clearScreenIssuesOneRequest : Obligations.ClearScreenIssuesOneRequest :=
  ⟨by decide, fun _ _ answered => ⟨_, execClearScreen_of_answered answered, rfl⟩⟩

end Sys2Proof.Machine
end

section
/-! The statements of spec/60_exceptions.md: what a turn leaves of a failed engine, the record of a failure, the ticks of a
timer and the turns about it, and the draw instructions without an answer. -/

namespace Sys2Proof.Machine

section
variable {s t : State}

/-! ### A failed engine -/

/-- Without a pending wait a host's action that is no reset reaches the timers alone (R150). -/
theorem hostAct_frame_of_idle {a : HostAction} (idle : s.waiting = none) (noReset : ∀ l, a ≠ .reset l)
    (h : hostAct a s = .next t) : t = { s with dt := t.dt, st := t.st } := by
  cases a with
  | keyPress k =>
    rw [hostAct, State.completeWait_of_none k idle] at h
    cases h
    rfl
  | delayStart | delayStop | soundStart | soundStop => cases h; rfl
  | reset l => exact absurd rfl (noReset l)
  | shutDown => cases h

/-- A turn that is no reset leaves a failed engine as it is: the engine takes no step (R135), and the other agents reach
the timers, the inputs and the list of turns alone. -/
theorem step_frame_of_failed (failed : s.fault.isSome = true) (idle : s.waiting = none)
    (noReset : ∀ l rest, s.turns ≠ .host (.reset l) :: rest) (h : step s = .next t) :
    t = { s with dt := t.dt, st := t.st, ports := t.ports, turns := t.turns } := by
  have halted : s.halted = true := halted_eq_true.mpr (.inl failed)
  obtain ⟨-, run⟩ | ⟨p, rest, u, -, run, rfl⟩ | ⟨rest, -, rfl⟩ | ⟨rest, -, rfl⟩ | ⟨a, rest, turns, act⟩ :=
    step_cases h
  · rw [engineStep_of_halted halted] at run
    cases run
    rfl
  · have granted : State.halted { s with turns := rest, ports := p } = true := halted
    rw [engineStep_of_halted granted] at run
    cases run
    rfl
  · rfl
  · rfl
  · have noResetAct : ∀ l, a ≠ .reset l := fun l is => noReset l rest (is ▸ turns)
    rw [hostAct_frame_of_idle (s := { s with turns := rest }) idle noResetAct act]

/-! ### The turns of the tickers (R149) -/

theorem step_of_delayTick {rest : List Turn} (h : s.turns = .delayTick :: rest) :
    step s = .next { s with turns := rest, dt := s.dt.tick } := by
  rw [step, h]
  rfl

theorem step_of_soundTick {rest : List Turn} (h : s.turns = .soundTick :: rest) :
    step s = .next { s with turns := rest, st := s.st.tick } := by
  rw [step, h]
  rfl

/-! ### A draw without an answer (R153) -/

theorem execClearScreen_of_unanswered (unanswered : s.inputs.drawResp = none) :
    execClearScreen s = .next s.nextInput := by
  rw [execClearScreen, s.draw_unanswered _ _ unanswered, finish_eq, conclude_stuck]

theorem execDrawSprite_of_unanswered (x y n : Reg) (unanswered : s.inputs.drawResp = none) :
    execDrawSprite x y n s = .next s.nextInput := by
  simp only [execDrawSprite, s.draw_unanswered _ _ unanswered, finish_eq, conclude_stuck]

end

/-! ### Ticks in a row -/

theorem Timer.iterate_tick_run (n : Nat) (t : Timer) : (Timer.tick^[n] t).run = t.run := by
  induction n with
  | zero => rfl
  | succ n ih => rw [Function.iterate_succ_apply', Timer.tick_run, ih]

theorem Timer.iterate_tick_value (n : Nat) (t : Timer) :
    (Timer.tick^[n] t).value.toNat = if t.run = true then t.value.toNat - n else t.value.toNat := by
  induction n with
  | zero => exact (ite_self _).symm
  | succ n ih =>
    rw [Function.iterate_succ_apply', Timer.tick_value, Timer.iterate_tick_run, ih]
    split
    · exact Nat.sub_sub _ _ _
    · rfl

/-! ### The statements -/

/-- Settles O10, by `step_frame_of_failed`. -/
theorem failureIsLeftOnlyByReset : Obligations.FailureIsLeftOnlyByReset := by
  intro s t f failed idle noReset h
  have isFailed : s.fault.isSome = true := by rw [failed, Option.isSome_some]
  rw [step_frame_of_failed isFailed idle noReset h]
  exact ⟨failed, idle, rfl, rfl, rfl, rfl, rfl, rfl, rfl⟩

/-- Settles O48: the one effect that latches a failure keeps the pc and records it with the instruction's word, and
`exec_faultPossible` bounds the address. -/
theorem failureRecordsItsInstruction : Obligations.FailureRecordsItsInstruction := by
  intro i s t f unfailed h latched
  have possible : t.FaultPossible := exec_faultPossible (fun g hg => nomatch unfailed.symm.trans hg) h
  cases exec_effect h with
  | failure _ _ _ _ fails _ _ =>
    have hf := possible f latched
    cases latched
    exact ⟨fails, rfl, rfl, rfl, hf⟩
  | _ => exact nomatch unfailed.symm.trans latched

/-- Settles O49, by induction on the number of ticks. -/
theorem ticksCountDownToZero : Obligations.TicksCountDownToZero := fun n t =>
  ⟨Timer.iterate_tick_value n t, Timer.iterate_tick_run n t⟩

/-- Settles O42: the handler is stuck after its one read of the inputs. -/
theorem drawWithoutAnAnswerStays : Obligations.DrawWithoutAnAnswerStays := fun _ unanswered =>
  ⟨execClearScreen_of_unanswered unanswered, fun x y n => execDrawSprite_of_unanswered x y n unanswered⟩

/-- Settles O50: a tick is a turn of its ticker, a start or a stop one of the host. -/
theorem timerTurnsWriteTheirOwnTimer : Obligations.TimerTurnsWriteTheirOwnTimer := fun _ _ =>
  ⟨step_of_delayTick, step_of_soundTick, step_of_host, step_of_host, step_of_host, step_of_host⟩

end Sys2Proof.Machine
end

section
/-! The statements of spec/70_reset_and_hazards.md: the bytes of a launch memory and the turn that installs it, what each
turn does to the delay timer's value, and the spin. -/

namespace Sys2Proof.Machine

/-! ### The memory of a launch (R157, R158) -/

/-- In its region, outside the font and over a 0, a launch input gives an address the byte it lists there. -/
theorem loadCells_get_listed {p : Params} {lo hi a : Nat} (cells : List Host.Cell) {m : Memory}
    (outside : inFont p a = false) (inRegion : lo ≤ a ∧ a ≤ hi) (zero : Memory.get (unlistedByte p a) a m = 0#8) :
    Memory.get (unlistedByte p a) a (loadCells p lo hi cells m) = listedByte cells a := by
  rw [loadCells_get _ _ _ _ _ _ outside, if_pos inRegion, zero, listedByte]

/-- Outside its region and the font a launch input changes nothing. -/
theorem loadCells_get_unreached {p : Params} {lo hi a : Nat} (cells : List Host.Cell) (m : Memory)
    (outside : inFont p a = false) (unreached : ¬ (lo ≤ a ∧ a ≤ hi)) :
    Memory.get (unlistedByte p a) a (loadCells p lo hi cells m) = Memory.get (unlistedByte p a) a m := by
  rw [loadCells_get _ _ _ _ _ _ outside, if_neg unreached]

theorem get_nil_of_outside_font {p : Params} {a : Nat} (outside : inFont p a = false) :
    Memory.get (unlistedByte p a) a [] = 0#8 := by
  simp [Memory.get, unlistedByte, outside]

theorem inFont_eq_false_iff (p : Params) (a : Nat) :
    inFont p a = false ↔ a < p.fontBase.val ∨ p.fontBase.val + 80 ≤ a := by
  rw [inFont, Bool.and_eq_false_iff, decide_eq_false_iff_not, decide_eq_false_iff_not, not_le, not_lt, Config.fontSize]

theorem inFont_of_progStart_le (p : Params) {a : Nat} (h : Config.progStart ≤ a) : inFont p a = false := by
  have := p.fontBase.isLt
  rw [inFont_eq_false_iff]
  simp only [Config.progStart] at h
  omega

section
variable {s : State} {a : Nat}

/-- Below the program region and outside the font a launch leaves RESERVED_FILL. -/
theorem State.launch_memRead_reserved (l : Launch) (low : a < Config.progStart) (outside : inFont s.params a = false) :
    (s.launch l).memRead a = listedByte l.reservedFill a := by
  have inArray : a ≤ Config.memTop := low.le.trans (by decide)
  calc (s.launch l).memRead a
      = Memory.get (unlistedByte s.params a) a (launchMemory s.params l) := if_pos inArray
    _ = Memory.get (unlistedByte s.params a) a (loadCells s.params 0 (Config.progStart - 1) l.reservedFill []) :=
        loadCells_get_unreached _ _ outside (fun h => Nat.not_le.mpr low h.1)
    _ = listedByte l.reservedFill a :=
        loadCells_get_listed _ outside ⟨Nat.zero_le a, Nat.le_pred_of_lt low⟩ (get_nil_of_outside_font outside)

/-- In the program region a launch leaves ROM_IMAGE. -/
theorem State.launch_memRead_rom (l : Launch) (low : Config.progStart ≤ a) (high : a ≤ Config.memTop) :
    (s.launch l).memRead a = listedByte l.romImage a := by
  have outside := inFont_of_progStart_le s.params low
  have unreached : ¬ (0 ≤ a ∧ a ≤ Config.progStart - 1) := fun h => absurd (low.trans h.2) (by decide)
  calc (s.launch l).memRead a
      = Memory.get (unlistedByte s.params a) a (launchMemory s.params l) := if_pos high
    _ = listedByte l.romImage a :=
        loadCells_get_listed _ outside ⟨low, high⟩
          ((loadCells_get_unreached _ _ outside unreached).trans (get_nil_of_outside_font outside))

/-- Every launch ends in a launch state (R161). -/
theorem State.launch_launched (s : State) (l : Launch) : (s.launch l).Launched where
  noFault := rfl
  noWait := rfl
  stackEmpty := rfl
  entry := rfl
  font := s.launch_fontIntact l

end

section
variable {s t : State}

/-! ### The value of the delay timer, turn by turn (R165) -/

theorem Timer.tick_value_le (t : Timer) : t.tick.value.toNat ≤ t.value.toNat := by
  rw [Timer.tick_value]
  split
  · exact Nat.sub_le _ _
  · exact le_rfl

theorem writesDelayTimer_iff (i : Instr) : i.writesDelayTimer = true ↔ ∃ x, i = .setDelayTimer x := by
  cases i <;> simp [Instr.writesDelayTimer]

/-- The engine's turn keeps the delay timer unless set-delay-timer is next (spec/10_state.md R27). -/
theorem engineStep_dt (noSet : ∀ x, decode s.fetchWord ≠ .ok (.setDelayTimer x)) (h : engineStep s = .next t) :
    t.dt = s.dt := by
  obtain ⟨-, rfl⟩ | ⟨-, i, decoded, run⟩ | ⟨-, _, -, rfl⟩ := engineStep_cases h
  · rfl
  · obtain ⟨-, -, dt, -⟩ := specialStateIsKeptByOtherInstructions i s t run
    refine dt (Bool.eq_false_iff.mpr fun writes => ?_)
    obtain ⟨x, rfl⟩ := (writesDelayTimer_iff i).mp writes
    exact noSet x decoded
  · rfl

theorem State.completeWait_dt (s : State) (k : Reg) : (s.completeWait k).dt = s.dt := by
  obtain ⟨-, e⟩ | ⟨x, -, e⟩ := s.completeWait_cases k <;> rw [e]
  rfl

/-- A host's action other than a reset keeps the delay timer's value: start and stop write its running state alone. -/
theorem hostAct_dt_value {a : HostAction} (noReset : ∀ l, a ≠ .reset l) (h : hostAct a s = .next t) :
    t.dt.value = s.dt.value := by
  cases a with
  | keyPress k => cases h; rw [State.completeWait_dt]
  | delayStart | delayStop | soundStart | soundStop => cases h; rfl
  | reset l => exact absurd rfl (noReset l)
  | shutDown => cases h

/-! ### A spin (R162) -/

/-- A jump to the pc leaves the whole state. -/
theorem execJump_self {nnn : Addr} (self : zextAddr nnn = s.pc) : execJump nnn s = .next s := by
  rw [execJump_eq, self]
  rfl

/-- The engine's turn in a spin leaves the whole state. -/
theorem engineStep_of_spinning (h : s.Spinning) : engineStep s = .next s := by
  obtain ⟨free, nnn, fetched, self⟩ := h
  have decoded : decode s.fetchWord = .ok (.jump nnn) := by
    rw [fetched]
    exact decodeOfEncodeIsTheInstruction (.jump nnn) rfl
  exact (engineStep_of_ok free decoded).trans (execJump_self self)

end

/-! ### The statements -/

/-- Settles O51, turn by turn: the engine keeps the timer by `engineStep_dt`, the host its value by `hostAct_dt_value`, and
a tick does not raise it. -/
theorem delayTimerRisesOnlyWhenSet : Obligations.DelayTimerRisesOnlyWhenSet := by
  intro s t h noReset noSet
  obtain ⟨-, run⟩ | ⟨p, rest, u, -, run, rfl⟩ | ⟨rest, -, rfl⟩ | ⟨rest, -, rfl⟩ | ⟨a, rest, turns, act⟩ := step_cases h
  · rw [engineStep_dt noSet run]
  · have kept := engineStep_dt (s := { s with turns := rest, ports := p }) noSet run
    rw [State.setPorts_dt, kept]
  · exact s.dt.tick_value_le
  · exact le_rfl
  · have noResetAct : ∀ l, a ≠ .reset l := fun l is => noReset l rest (is ▸ turns)
    rw [hostAct_dt_value noResetAct act]

/-- Settles O52: the turn is `State.launch`, whose registers and timers are the launch inputs by definition; its memory is
`launch_memRead_reserved`, `launch_memRead_rom` and the font. -/
theorem resetTurnLaunches : Obligations.ResetTurnLaunches := by
  intro s l rest turns
  refine ⟨State.launch { s with turns := rest } l, step_of_host turns, State.launch_launched _ l, rfl, rfl, rfl, rfl,
    fun a low outside => ?_, fun a low high => State.launch_memRead_rom l low high, rfl, launchMemory_wf s.params l⟩
  exact State.launch_memRead_reserved l low ((inFont_eq_false_iff s.params a).mpr outside)

/-- Settles O53, by `engineStep_of_spinning`. -/
theorem spinningEngineChangesNothing : Obligations.SpinningEngineChangesNothing := fun _ spinning turns =>
  (step_of_no_turns turns).trans (engineStep_of_spinning spinning)

end Sys2Proof.Machine
end
